-- ==== Sys2Proof/Word.lean ====
section
/-! DEFINITION. The byte type of the block's streams and of the line buffer (00_scope.md R10). -/

namespace Sys2Proof

/-- An input byte, an output byte, a line-buffer cell or a payload byte: 8 bits, unsigned (R10, R12). -/
abbrev Byte := BitVec 8

end Sys2Proof
end

