-- ==== Sys2Proof/Config.lean ====
section
/-! DEFINITION. The implementation parameters (00_scope.md R8 to R11) and the free values: the answers of the
collaborators, which the spec leaves to the outside (R15, 92_eei_decisions.md D2). -/

namespace Sys2Proof

/-- The three parameters the model takes as arguments (R11). -/
structure Params where
  /-- MAXLEN, the line-buffer sizing, terminator slot included (R8). -/
  maxLen : Nat
  /-- RXID_W, the width in bits of an RX identifier (R10, R35). -/
  rxIdW : Nat
  /-- TXFAIL_W, the width in bits of the send-failure counter (R10, R26). -/
  txFailW : Nat
  deriving DecidableEq, Repr

/-- The default parameter values of R11. -/
def Params.default : Params := { maxLen := 32, rxIdW := 29, txFailW := 32 }

/-- CAP, the number of command bytes the line buffer can hold (R9). -/
def Params.cap (p : Params) : Nat := p.maxLen - 1

/-- The width in bits of the register LEN: ceil(log2(CAP + 1)) (R10, R24). -/
def Params.lenW (p : Params) : Nat := Nat.clog 2 (p.cap + 1)

/-- The one condition R8 puts on the parameters. -/
abbrev Params.legal (p : Params) : Prop := 2 ≤ p.maxLen

/-! Free values (log 3, log 4). No Lean term can evaluate them. The argument is the number of moves taken so far. -/

/-- Whether the n-th free move is a RESET event instead of an iteration (R144, R175). -/
opaque Config.freeReset : Nat → Bool

/-- The input byte of the n-th free move, or none (R30). -/
opaque Config.freeInb : Nat → Option Byte

/-- The controller's answer to a `send` in the n-th free move (R32). -/
opaque Config.freeSendOk : Nat → Bool

/-- Whether the poll of the n-th free move finds a frame (R33). -/
opaque Config.freePollPresent : Nat → Bool

/-- The `ide` bit of the frame polled in the n-th free move (R35). -/
opaque Config.freeIde : Nat → Bool

/-- The identifier of that frame, before it is cut to RXID_W bits (R35). -/
opaque Config.freeId : Nat → Nat

/-- The data length of that frame, 0 to 8 (R35). -/
opaque Config.freeDlc : Nat → Fin 9

/-- Payload byte i of that frame (R35). -/
opaque Config.freeByte : Nat → Nat → Byte

end Sys2Proof
end

