-- ==== Sys2Proof/Syntax.lean ====
section
/-! DEFINITION. The block's three kinds of input and the thirteen instructions they decode to: one constructor
per row of spec/opcode_table.json (00_scope.md R19, 30_encoding.md R63). -/

namespace Sys2Proof

/-- A TX frame, what the parser builds and `send` carries (10_state.md R34). -/
structure TxFrame where
  /-- The three-hex-digit value as is, 0x000 to 0xFFF. -/
  id : BitVec 12
  /-- The declared data-length digit, 0 to 15. -/
  dlc : BitVec 4
  /-- The decoded payload, exactly min(dlc, 8) bytes. -/
  data : List Byte
  deriving DecidableEq, Repr

/-- An RX frame, what `poll` returns (10_state.md R35). -/
structure RxFrame where
  /-- The extended-identifier flag. -/
  ide : Bool
  /-- The identifier, RXID_W bits. -/
  id : Nat
  /-- The data length, 0 to 8. -/
  dlc : Nat
  /-- The payload, dlc bytes. -/
  data : List Byte
  deriving DecidableEq, Repr

/-- What follows the opcode of a transmit line: the operand fields of R68 when the line passes the checks of R70,
and the bare characters when it does not. -/
inductive TxArg where
  /-- ID, DLC and DATA as R69 assembles them, and the TAIL characters, which nothing reads. -/
  | frame (f : TxFrame) (tail : List Byte)
  /-- Characters that fail a check of R70. -/
  | malformed (chars : List Byte)
  deriving DecidableEq, Repr

/-- A Parse Result (10_state.md R36). -/
inductive ParseResult where
  | openBus
  | closeBus
  | transmit (f : TxFrame)
  | unrecognized
  deriving DecidableEq, Repr

/-- The three formats of R63. -/
inductive Format where
  | byte
  | line
  | rxframe
  deriving DecidableEq, Repr

/-- One input of the block, in the format it is decoded in (R63). -/
inductive Input where
  /-- One byte on IN. -/
  | byte (b : Byte)
  /-- One completed command line. -/
  | line (chars : List Byte)
  /-- One answer of `poll()`. -/
  | poll (answer : Option RxFrame)
  deriving DecidableEq, Repr

/-- The instructions (R19). BYTE rows carry the byte where the class leaves it open, LINE rows what follows the
opcode, RXFRAME rows the frame. -/
inductive Instr where
  /-- FEED_CR (R86). -/
  | feedCr
  /-- FEED_LF (R87). -/
  | feedLf
  /-- FEED_NUL (R88). -/
  | feedNul
  /-- FEED_LOWER (R89): the byte as received, 0x61 to 0x7A. -/
  | feedLower (b : Byte)
  /-- FEED_OTHER (R90): the byte as received. -/
  | feedOther (b : Byte)
  /-- OPEN (R101) and the bytes after position 0, which nothing reads (R67). -/
  | openBus (ignored : List Byte)
  /-- CLOSE (R102) and the bytes after position 0, which nothing reads (R67). -/
  | closeBus (ignored : List Byte)
  /-- TRANSMIT (R103), opcode 'T'. -/
  | transmit (arg : TxArg)
  /-- TRANSMIT_LC (R104), opcode 't'. -/
  | transmitLc (arg : TxArg)
  /-- UNRECOGNIZED (R105): the first byte and the rest of the line. -/
  | unrecognized (op : Byte) (rest : List Byte)
  /-- POLL_EMPTY (R123). -/
  | pollEmpty
  /-- RX_STD (R121). -/
  | rxStd (f : RxFrame)
  /-- RX_EXT (R122). -/
  | rxExt (f : RxFrame)
  deriving DecidableEq, Repr

/-- The format an instruction belongs to (R63, R78). -/
def Instr.format : Instr → Format
  | .feedCr => .byte
  | .feedLf => .byte
  | .feedNul => .byte
  | .feedLower _ => .byte
  | .feedOther _ => .byte
  | .openBus _ => .line
  | .closeBus _ => .line
  | .transmit _ => .line
  | .transmitLc _ => .line
  | .unrecognized _ _ => .line
  | .pollEmpty => .rxframe
  | .rxStd _ => .rxframe
  | .rxExt _ => .rxframe

/-- The format of an input. -/
def Input.format : Input → Format
  | .byte _ => .byte
  | .line _ => .line
  | .poll _ => .rxframe

end Sys2Proof
end

