-- ==== Sys2Proof/Machine/Chars.lean ====
section
/-! DEFINITION. ASCII codes (00_scope.md R12), the character primitives IsHex, HexVal, HexChar and Upper (R16), the
byte classes of 30_encoding.md R64, and the field checks of a transmit line (R70). -/

namespace Sys2Proof

/-- NUL, 0x00. -/
abbrev nul : Byte := 0x00
/-- The bell byte, 0x07. -/
abbrev bel : Byte := 0x07
/-- Line feed, 0x0A. -/
abbrev lf : Byte := 0x0A
/-- Carriage return, 0x0D. -/
abbrev cr : Byte := 0x0D
/-- 'O', 0x4F. -/
abbrev chO : Byte := 0x4F
/-- 'C', 0x43. -/
abbrev chC : Byte := 0x43
/-- 'T', 0x54. -/
abbrev chT : Byte := 0x54
/-- 't', 0x74. -/
abbrev chTLower : Byte := 0x74

/-- IsHex of R16: '0' to '9' or 'A' to 'F'. -/
def isHex (b : Byte) : Bool :=
  (0x30 ≤ b.toNat && b.toNat ≤ 0x39) || (0x41 ≤ b.toNat && b.toNat ≤ 0x46)

/-- HexVal of R16, a result of 0 to 15; its use requires `isHex b`. -/
def hexVal (b : Byte) : BitVec 4 :=
  if b.toNat ≤ 0x39 then BitVec.ofNat 4 (b.toNat - 0x30) else BitVec.ofNat 4 (b.toNat - 0x37)

/-- HexChar of R16: the uppercase digit of a 4-bit value. -/
def hexChar (v : BitVec 4) : Byte :=
  if v.toNat ≤ 9 then BitVec.ofNat 8 (0x30 + v.toNat) else BitVec.ofNat 8 (0x37 + v.toNat)

/-- The class of ASCII lowercase letters, 0x61 to 0x7A (R64 row 4). -/
def isLower (b : Byte) : Bool := 0x61 ≤ b.toNat && b.toNat ≤ 0x7A

/-- Upper of R16: only ASCII lowercase letters are mapped. -/
def upper (b : Byte) : Byte := if isLower b then b - 0x20 else b

/-- A terminator: CR or LF. -/
def isTerminator (b : Byte) : Bool := b == cr || b == lf

/-- A byte a stored command line may hold: no NUL, CR or LF and no lowercase letter (10_state.md R25). -/
def isLineByte (b : Byte) : Bool := b != nul && b != lf && b != cr && !isLower b

/-- An opcode byte of a line that is not UNRECOGNIZED (R66). -/
def isOpcode (b : Byte) : Bool := b == chO || b == chC || b == chT || b == chTLower

/-- HexVal where it is defined (R16). -/
def hexVal? (b : Byte) : Option (BitVec 4) := if isHex b then some (hexVal b) else none

/-- The byte whose bits 7:4 are `hi` and whose bits 3:0 are `lo` (R48). -/
def byteOfDigits (hi lo : BitVec 4) : Byte := hi ++ lo

/-- The identifier of three digits, most significant first (R47, R69). -/
def idOfDigits (h1 h2 h3 : BitVec 4) : BitVec 12 := BitVec.ofNat 12 (h1.toNat * 256 + h2.toNat * 16 + h3.toNat)

/-- The two digits of a byte, bits 7:4 first (R48). -/
def digitsOfByte (b : Byte) : List Byte := [hexChar (b.extractLsb' 4 4), hexChar (b.extractLsb' 0 4)]

/-- The number of payload pairs a data-length digit stands for: min(DLC, 8) (R69). -/
def payloadLen (dlc : BitVec 4) : Nat := min dlc.toNat 8

/-! The four named checks of a transmit line (R70). `chars` is the line without its opcode, so position j of the
line is index j - 1 here and the line's length L is `chars.length + 1`. A position is read only when it exists. -/

/-- Check 1, `len_min`: L >= 5. -/
def lenMin (chars : List Byte) : Bool := 5 ≤ chars.length + 1

/-- Check 2, `hdr_hex`: positions 1 to 4 are hex digits. -/
def hdrHex (chars : List Byte) : Bool := (List.range 4).all fun j => (chars[j]?).any isHex

/-- The declared data length, HexVal of position 4; 0 where the position is absent. -/
def dlcOf (chars : List Byte) : Nat := ((chars[3]?).map fun c => (hexVal c).toNat).getD 0

/-- Check 3, `len_dlc`: L >= 5 + 2 * HexVal(line[4]). -/
def lenDlc (chars : List Byte) : Bool := 5 + 2 * dlcOf chars ≤ chars.length + 1

/-- Check 4, `data_hex`: positions 5 to 4 + 2 * min(HexVal(line[4]), 8) are hex digits. -/
def dataHex (chars : List Byte) : Bool :=
  (List.range (2 * min (dlcOf chars) 8)).all fun j => (chars[4 + j]?).any isHex

/-- R70: all four checks hold. -/
def txLineOk (chars : List Byte) : Bool :=
  lenMin chars && hdrHex chars && lenDlc chars && dataHex chars

end Sys2Proof
end

