-- ==== Sys2Proof/WellFormed.lean ====
section
/-! DEFINITION. Which frames, inputs and instructions are well formed: the types of 10_state.md R34 and R35, the
command line of 30_encoding.md R65, and the class conditions of R64, R66, R70 and R73. -/

namespace Sys2Proof

/-- R34: a TX frame holds exactly min(dlc, 8) payload bytes. -/
def TxFrame.ok (f : TxFrame) : Bool := f.data.length == payloadLen f.dlc

/-- R35: the identifier has RXID_W bits, the data length is at most 8 and counts the payload bytes. -/
def RxFrame.ok (p : Params) (f : RxFrame) : Bool :=
  decide (f.id < 2 ^ p.rxIdW) && decide (f.dlc ≤ 8) && f.data.length == f.dlc

/-- R33, R35: the answers a controller may give to `poll()`. -/
def answerOk (p : Params) : Option RxFrame → Bool
  | none => true
  | some f => f.ok p

/-- The characters after the opcode fit a command line: allowed bytes only, at most CAP with the opcode (R65). -/
def charsOk (p : Params) (chars : List Byte) : Bool :=
  chars.all isLineByte && decide (chars.length + 1 ≤ p.cap)

/-- The operands of a transmit line: a frame that R69 can assemble from a line long enough for its declared data
length (R68, R70), or characters that fail a check of R70. -/
def TxArg.wf (p : Params) : TxArg → Bool
  | .frame f tail =>
    f.ok && tail.all isLineByte
      && decide (2 * f.dlc.toNat ≤ 2 * payloadLen f.dlc + tail.length)
      && decide (5 + 2 * payloadLen f.dlc + tail.length ≤ p.cap)
  | .malformed chars => charsOk p chars && !txLineOk chars

/-- A well-formed instruction: each carries only what its row of the opcode table admits. -/
def Instr.wf (p : Params) : Instr → Bool
  | .feedCr => true
  | .feedLf => true
  | .feedNul => true
  | .feedLower b => isLower b
  | .feedOther b => isLineByte b
  | .openBus ignored => charsOk p ignored
  | .closeBus ignored => charsOk p ignored
  | .transmit arg => arg.wf p
  | .transmitLc arg => arg.wf p
  | .unrecognized op rest => isLineByte op && !isOpcode op && charsOk p rest
  | .pollEmpty => true
  | .rxStd f => f.ok p && !f.ide
  | .rxExt f => f.ok p && f.ide

/-- A line the Line Assembler can complete (R65). -/
def lineOk (p : Params) (chars : List Byte) : Bool :=
  decide (1 ≤ chars.length) && decide (chars.length ≤ p.cap) && chars.all isLineByte

end Sys2Proof
end

