-- ==== Sys2Proof/Decode.lean ====
section
/-! DEFINITION. The three decoders of 30_encoding.md R63, total, rejecting by name, and the encoder; the machine-readable
table of R78; and the two functions the host asks about a table word. -/

namespace Sys2Proof

/-- Why an input has no instruction. -/
inductive DecodeReject where
  /-- An empty line: never formed, so never decoded (R65). -/
  | emptyLine
  /-- A poll answer that is not an RX frame of R35: the block admits no such answer (U9). -/
  | answerOutsideType
  deriving DecidableEq, Repr

/-- R64: the class of an input byte, tested in the order of the table. -/
def decodeByte (b : Byte) : Instr :=
  if b = cr then .feedCr
  else if b = lf then .feedLf
  else if b = nul then .feedNul
  else if isLower b then .feedLower b
  else .feedOther b

/-- The first n pairs of hex digits as bytes (R69), and the characters after them. -/
def takePairs : Nat → List Byte → Option (List Byte × List Byte)
  | 0, cs => some ([], cs)
  | n + 1, hi :: lo :: cs =>
    match hexVal? hi, hexVal? lo with
    | some h, some l => (takePairs n cs).map fun r => (byteOfDigits h l :: r.1, r.2)
    | _, _ => none
  | _ + 1, _ => none

/-- DecodeTransmit of R100, on the characters after the opcode. No position is read that the line does not have
(R107), because the fields are taken off the front of the list. -/
def decodeTransmit (chars : List Byte) : TxArg :=
  match chars with
  | c1 :: c2 :: c3 :: c4 :: more =>
    match hexVal? c1, hexVal? c2, hexVal? c3, hexVal? c4 with
    | some h1, some h2, some h3, some dlc =>
      if more.length < 2 * dlc.toNat then .malformed chars
      else
        match takePairs (payloadLen dlc) more with
        | some (data, tail) => .frame { id := idOfDigits h1 h2 h3, dlc := dlc, data := data } tail
        | none => .malformed chars
    | _, _, _, _ => .malformed chars
  | _ => .malformed chars

/-- R66: the opcode is the first byte of the line. -/
def decodeLine : List Byte → Except DecodeReject Instr
  | [] => .error .emptyLine
  | c :: rest =>
    .ok (if c = chO then .openBus rest
      else if c = chC then .closeBus rest
      else if c = chT then .transmit (decodeTransmit rest)
      else if c = chTLower then .transmitLc (decodeTransmit rest)
      else .unrecognized c rest)

/-- R73: the class of a poll answer. -/
def decodePoll (p : Params) : Option RxFrame → Except DecodeReject Instr
  | none => .ok .pollEmpty
  | some f =>
    if f.ok p then .ok (if f.ide then .rxExt f else .rxStd f) else .error .answerOutsideType

/-- The block's decoder: each input in its own format (R63). -/
def decode (p : Params) : Input → Except DecodeReject Instr
  | .byte b => .ok (decodeByte b)
  | .line chars => decodeLine chars
  | .poll answer => decodePoll p answer

/-- The three identifier digits of a TX frame, most significant first (R47). -/
def idDigits (id : BitVec 12) : List Byte :=
  [hexChar (id.extractLsb' 8 4), hexChar (id.extractLsb' 4 4), hexChar (id.extractLsb' 0 4)]

/-- What follows the opcode in the line of a transmit command (R68, R77). -/
def encodeTransmit : TxArg → List Byte
  | .frame f tail => idDigits f.id ++ hexChar f.dlc :: (f.data.flatMap digitsOfByte ++ tail)
  | .malformed chars => chars

/-- The encoder: the input that stands for an instruction, from the tables R64, R66, R68 and R73. -/
def encode : Instr → Input
  | .feedCr => .byte cr
  | .feedLf => .byte lf
  | .feedNul => .byte nul
  | .feedLower b => .byte b
  | .feedOther b => .byte b
  | .openBus ignored => .line (chO :: ignored)
  | .closeBus ignored => .line (chC :: ignored)
  | .transmit arg => .line (chT :: encodeTransmit arg)
  | .transmitLc arg => .line (chTLower :: encodeTransmit arg)
  | .unrecognized op rest => .line (op :: rest)
  | .pollEmpty => .poll none
  | .rxStd f => .poll (some f)
  | .rxExt f => .poll (some f)

/-! The machine-readable table (R78). -/

/-- How a row of the table selects its inputs. -/
inductive RowKey where
  /-- `(x & mask) == match`. -/
  | masked (pattern mask : Nat)
  /-- An inclusive range. -/
  | range (lo hi : Nat)
  /-- Taken when no other row of the format matches. -/
  | anyOther
  /-- The answer `none` of a poll. -/
  | answerNone
  deriving DecidableEq, Repr

/-- One row of the table. -/
structure Row where
  mnemonic : String
  format : Format
  priority : Nat
  key : RowKey
  deriving DecidableEq, Repr

/-- The thirteen rows, each format in ascending priority. -/
def opcodeTable : List Row :=
  [ ⟨"FEED_CR", .byte, 1, .masked 0x0D 0xFF⟩, ⟨"FEED_LF", .byte, 2, .masked 0x0A 0xFF⟩,
    ⟨"FEED_NUL", .byte, 3, .masked 0x00 0xFF⟩, ⟨"FEED_LOWER", .byte, 4, .range 0x61 0x7A⟩,
    ⟨"FEED_OTHER", .byte, 5, .anyOther⟩ ] ++
  [ ⟨"OPEN", .line, 1, .masked 0x4F 0xFF⟩, ⟨"CLOSE", .line, 2, .masked 0x43 0xFF⟩,
    ⟨"TRANSMIT", .line, 3, .masked 0x54 0xFF⟩, ⟨"TRANSMIT_LC", .line, 4, .masked 0x74 0xFF⟩,
    ⟨"UNRECOGNIZED", .line, 5, .anyOther⟩ ] ++
  [ ⟨"POLL_EMPTY", .rxframe, 1, .answerNone⟩, ⟨"RX_STD", .rxframe, 2, .masked 0x0 0x1⟩,
    ⟨"RX_EXT", .rxframe, 3, .masked 0x1 0x1⟩ ]

/-- The value a row tests: the byte, the line's first byte, or the `ide` bit of a present frame; none for the answer
`none` and for an empty line. -/
def Input.key : Input → Option Nat
  | .byte b => some b.toNat
  | .line chars => chars.head?.map BitVec.toNat
  | .poll answer => answer.map fun f => f.ide.toNat

/-- A row selects an input of its format. -/
def Row.selects (r : Row) (x : Input) : Bool :=
  r.format == x.format &&
    match r.key, x.key with
    | .masked pattern mask, some k => k &&& mask == pattern
    | .range lo hi, some k => decide (lo ≤ k) && decide (k ≤ hi)
    | .anyOther, some _ => true
    | .answerNone, none => true
    | _, _ => false

/-- R78: rows are tested in ascending priority and the first that matches is taken. -/
def tableMnemonic (x : Input) : Option String := (opcodeTable.find? (·.selects x)).map Row.mnemonic

/-- The mnemonic of an instruction, as the table spells it. -/
def Instr.mnemonic : Instr → String
  | .feedCr => "FEED_CR"
  | .feedLf => "FEED_LF"
  | .feedNul => "FEED_NUL"
  | .feedLower _ => "FEED_LOWER"
  | .feedOther _ => "FEED_OTHER"
  | .openBus _ => "OPEN"
  | .closeBus _ => "CLOSE"
  | .transmit _ => "TRANSMIT"
  | .transmitLc _ => "TRANSMIT_LC"
  | .unrecognized _ _ => "UNRECOGNIZED"
  | .pollEmpty => "POLL_EMPTY"
  | .rxStd _ => "RX_STD"
  | .rxExt _ => "RX_EXT"

/-! A word of the table as an input (log 7). The table numbers the bits of rows of three formats alike, so a word of
8 bits or fewer does not say its format. -/

/-- The n low bytes of w, first byte lowest. -/
def bytesOf : Nat → Nat → List Byte
  | 0, _ => []
  | n + 1, w => BitVec.ofNat 8 w :: bytesOf n (w / 256)

/-- The poll answer whose `ide` bit is bit 0 of a table word, every other bit of the frame 0. -/
def answerOfWord (w : Nat) : Option RxFrame := some { ide := w % 2 == 1, id := 0, dlc := 0, data := [] }

/-- The input a table word stands for (log 7): a word of under 8 bits is an RXFRAME row's; one of 8 bits is the row
that fixes all 8 of its bits, else an RXFRAME row's where only bits 1:0 can be set, else a BYTE row's; a longer one
is a line. -/
def inputOfWord (nbits w : Nat) : Input :=
  if nbits < 8 then .poll (answerOfWord w)
  else if nbits = 8 then
    let b : Byte := BitVec.ofNat 8 w
    if b = cr ∨ b = lf ∨ b = nul then .byte b
    else if isOpcode b then .line [b]
    else if w < 4 then .poll (answerOfWord w)
    else .byte b
  else .line (bytesOf (nbits / 8) w)

/-- The instruction the decoder reads from a word of the opcode table. -/
def decodeTableWord (nbits w : Nat) : Option Instr :=
  match decode Params.default (inputOfWord nbits w) with
  | .ok i => some i
  | .error _ => none

end Sys2Proof
end

