-- ==== Sys2Proof/Machine/State.lean ====
section
/-! DEFINITION. The state of the block: the four registers of 10_state.md R20, and the model's own fields that carry
the parameters, the ports and the value in flight inside a step. -/

namespace Sys2Proof.Machine

/-- The values of the bus-state register BUS (R21). -/
inductive BusState where
  /-- OPEN. -/
  | opened
  /-- CLOSED. -/
  | closed
  deriving DecidableEq, Repr

/-- The line buffer LB as a list of (index, cell) pairs, indices strictly rising, no cell equal to `lbBlank`
(R23, R45). -/
abbrev Memory := List Host.Cell

/-- What a cell of LB that is not listed reads as (DESIGN CHOICE, log 2). -/
def lbBlank : Byte := 0x00

/-- The three draws of one step (R139). -/
structure Draws where
  /-- `inb`: the input byte of the step, or none (R30). -/
  inb : Option Byte
  /-- The controller's answer, should the step call `send` (R32). -/
  sendOk : Bool
  /-- The controller's answer, should the step call `poll` (R33). -/
  answer : Option RxFrame
  deriving DecidableEq, Repr

/-- One move of the outside: an iteration with its draws, or the RESET event (R144, R175). -/
inductive Stimulus where
  | iteration (d : Draws)
  | reset
  deriving DecidableEq, Repr

/-- One event of the record of a step (R144). -/
inductive Event where
  /-- The byte taken from IN. -/
  | consume (b : Byte)
  /-- The frame handed to the controller, and its answer. -/
  | send (f : TxFrame) (ok : Bool)
  /-- The bytes appended to OUT by one `emit`. -/
  | emit (bytes : List Byte)
  /-- The answer to the poll. -/
  | poll (answer : Option RxFrame)
  deriving DecidableEq, Repr

/-- The state. `bus`, `lb`, `len` and `txfail` are the spec's registers (R20); the others are the model's own. -/
@[ext]
structure State where
  /-- MAXLEN, RXID_W and TXFAIL_W (R11; log 1). No step changes them. -/
  params : Params
  /-- BUS (R21). -/
  bus : BusState
  /-- LB (R23). -/
  lb : Memory
  /-- LEN, the number of bytes in the line buffer (R24). -/
  len : Nat
  /-- TXFAIL, below 2^TXFAIL_W (R26). -/
  txfail : Nat
  /-- What Feed returned in this step: the completed line, or none; none between steps (R85, R28; log 6). -/
  lineOut : Option (List Byte)
  /-- The coming moves of the outside, oldest first; when empty, the move is a free value (log 3). -/
  stimuli : List Stimulus
  /-- How many moves have been taken: the index at which a free move is read (log 3). -/
  tick : Nat
  /-- The event record of the run, oldest first (R144; log 5). -/
  events : List Event
  deriving DecidableEq, Repr

/-- Faults. There is none: the block has no `raise`, and no error condition is fatal (00_scope.md R17, R166). Nothing
raises one; that is exact. -/
inductive Fault where
  deriving DecidableEq, Repr

/-- Refusals. -/
inductive Refusal where
  /-- Raised by an arm of `exec` for an instruction without a meaning. No arm does. Safe. -/
  | notModelled (mnemonic : String)
  /-- Raised by phase 2 of a step for a poll answer outside the RX frame type of R35: the spec admits no such answer
  and asks the model to refuse it (U9, D13; log 8). Unsafe where a real controller gives one. -/
  | answerOutsideType
  /-- Raised for an empty completed line, which no step forms (R65; log 6). Safe. -/
  | emptyLine
  deriving DecidableEq, Repr

/-- The machine right after reset (R37, R175, R176): BUS = OPEN, LEN = 0, TXFAIL = 0. LB and the model's own fields
hold the values of log 1 to log 6. -/
def State.reset : State :=
  { params := Params.default
    bus := .opened
    lb := []
    len := 0
    txfail := 0
    lineOut := none
    stimuli := []
    tick := 0
    events := [] }

end Sys2Proof.Machine
end

