-- ==== Sys2Proof/Machine/Ops.lean ====
section
/-! DEFINITION. The named operations over the line buffer, the ports and the outside's moves. -/

namespace Sys2Proof.Machine

/-- The outcome of a step or an instruction of this machine. -/
abbrev Result := Host.Outcome State Fault Refusal

/-- Go on with `g` from the state `r` answers; a stop stays the stop it is. -/
def andThen (r : Result) (g : State → Result) : Result :=
  match r with
  | .next s => g s
  | .fault f => .fault f
  | .refused e => .refused e

/-! The line buffer. -/

/-- The content of cell `i` (R23). -/
def Memory.read : Memory → Nat → Byte
  | [], _ => lbBlank
  | (a, v) :: m, i => if a = i then v else Memory.read m i

/-- Put a cell in its place among rising indices. -/
def Memory.insert : Memory → Nat → Byte → Memory
  | [], i, v => [(i, v)]
  | (a, w) :: m, i, v => if i < a then (i, v) :: (a, w) :: m else (a, w) :: Memory.insert m i v

/-- `LB[i] <- v`, in canonical form: a cell that becomes `lbBlank` is not listed. -/
def Memory.write (m : Memory) (i : Nat) (v : Byte) : Memory :=
  let others := m.filter fun c => c.1 != i
  if v = lbBlank then others else Memory.insert others i v

/-- The canonical form: strictly rising indices, no cell equal to what an unlisted one reads as. -/
abbrev Memory.wf (m : Memory) : Prop :=
  m.Pairwise (fun c d => c.1 < d.1) ∧ ∀ c ∈ m, c.2 ≠ lbBlank

/-- CAP (R9). -/
def State.cap (s : State) : Nat := s.params.cap

/-- The command line received so far: [LB[0], ..., LB[LEN-1]] (R23, R86). -/
def State.line (s : State) : List Byte := (List.range s.len).map s.lb.read

/-- The end of a line (R86, R87): a non-empty buffer is returned and becomes empty; its cells are not cleared. -/
def State.terminate (s : State) : State :=
  if 0 < s.len then { s with lineOut := some s.line, len := 0 } else { s with lineOut := none }

/-- The append of R89 and R90: `c` is stored if a cell is left and dropped silently if not; no line is returned. -/
def State.append (s : State) (c : Byte) : State :=
  if s.len < s.cap then { s with lb := s.lb.write s.len c, len := s.len + 1, lineOut := none }
  else { s with lineOut := none }

/-- A byte that neither extends nor ends the line (R88): no line is returned. -/
def State.discard (s : State) : State := { s with lineOut := none }

/-! The outside's moves. -/

/-- The frame a free poll answers, within the type of R35 (log 3). -/
def freeFrame (p : Params) (n : Nat) : RxFrame :=
  { ide := Config.freeIde n
    id := Config.freeId n % 2 ^ p.rxIdW
    dlc := (Config.freeDlc n).val
    data := (List.range (Config.freeDlc n).val).map (Config.freeByte n) }

/-- The draws of the n-th free move. -/
def freeDraws (p : Params) (n : Nat) : Draws :=
  { inb := Config.freeInb n
    sendOk := Config.freeSendOk n
    answer := if Config.freePollPresent n then some (freeFrame p n) else none }

/-- The n-th free move. -/
def freeStimulus (p : Params) (n : Nat) : Stimulus :=
  if Config.freeReset n then .reset else .iteration (freeDraws p n)

/-- The move the next step takes: the first of `stimuli`, a free one when there is none (log 3). -/
def State.stimulus (s : State) : Stimulus :=
  match s.stimuli with
  | x :: _ => x
  | [] => freeStimulus s.params s.tick

/-- The controller's answer to a `send` of this step (R32). During a RESET no `send` is made. -/
def State.sendAnswer (s : State) : Bool :=
  match s.stimulus with
  | .iteration d => d.sendOk
  | .reset => Config.freeSendOk s.tick

/-- The move is over: the next step takes the next one. -/
def State.advance (s : State) : State := { s with stimuli := s.stimuli.tail, tick := s.tick + 1 }

/-! The ports (R15). -/

/-- One more event in the record (R144). -/
def State.record (s : State) (e : Event) : State := { s with events := s.events ++ [e] }

/-- Port IN: the byte is taken from the transport (R30, R53). -/
def State.consume (s : State) (b : Byte) : State := s.record (.consume b)

/-- `emit(bytes)` on port OUT (R15, R31). `emit([])` emits nothing. -/
def State.emit (s : State) (bytes : List Byte) : State :=
  if bytes = [] then s else s.record (.emit bytes)

/-- `poll()` on port CANRX, answered by `answer` (R33, R53). -/
def State.polled (s : State) (answer : Option RxFrame) : State := s.record (.poll answer)

/-- The bytes of the emit events of a record, in order. -/
def outBytes (es : List Event) : List Byte :=
  es.flatMap fun e => match e with
    | .emit bytes => bytes
    | .consume _ => []
    | .send _ _ => []
    | .poll _ => []

/-- The output stream of the run so far (R31, R56). -/
def State.out (s : State) : List Byte := outBytes s.events

/-! RESET. -/

/-- The RESET event (R175): every register takes its reset value of R37, a partial line is discarded, nothing is
emitted, sent or polled, and the collaborators' coming moves stay. -/
def State.resetEvent (s : State) : State :=
  { s with
    bus := State.reset.bus
    lb := State.reset.lb
    len := State.reset.len
    txfail := State.reset.txfail
    lineOut := State.reset.lineOut }

end Sys2Proof.Machine
end

