-- ==== Sys2Proof/Machine/Flags.lean ====
section
/-! DEFINITION. The block's one flag, BUS, its counter TXFAIL, and the two status outputs (10_state.md R21, R22, R26;
43_dispatch_scheduler.md R135, R137, R147). -/

namespace Sys2Proof.Machine

/-- APPLY (R135): OpenBus and CloseBus write BUS; Transmit and Unrecognized do not. -/
def State.applyBus (s : State) (r : ParseResult) : State :=
  match r with
  | .openBus => { s with bus := .opened }
  | .closeBus => { s with bus := .closed }
  | .transmit _ => s
  | .unrecognized => s

/-- TXFAIL after an answer of the controller (R26, R137): one more, modulo 2^TXFAIL_W, on failure. -/
def State.countSend (s : State) (ok : Bool) : State :=
  if ok then s else { s with txfail := (s.txfail + 1) % 2 ^ s.params.txFailW }

/-- The status output `bus_open`: 1 = OPEN, 0 = CLOSED (R22, R147). -/
def State.busOpen (s : State) : BitVec 1 :=
  match s.bus with
  | .opened => 1
  | .closed => 0

/-- The status output `txfail_count`, TXFAIL_W bits (R26, R147). -/
def State.txfailCount (s : State) : BitVec s.params.txFailW := BitVec.ofNat s.params.txFailW s.txfail

end Sys2Proof.Machine
end

