-- ==== Sys2Proof/Machine/Operands.lean ====
section
/-! DEFINITION. The operand forms: the Parse Result of a transmit line's operands (41_command_parser.md R103) and of any
line (R100), and the encoding of a received frame (42_frame_codec.md R120). -/

namespace Sys2Proof

/-- What a transmit line parses to (R70, R103): its frame, or Unrecognized when a check fails. -/
def TxArg.result : TxArg → ParseResult
  | .frame f _ => .transmit f
  | .malformed _ => .unrecognized

/-- The Parse Result of a LINE instruction (R101 to R105); none for the other formats. -/
def Instr.parseResult : Instr → Option ParseResult
  | .openBus _ => some .openBus
  | .closeBus _ => some .closeBus
  | .transmit arg => some arg.result
  | .transmitLc arg => some arg.result
  | .unrecognized _ _ => some .unrecognized
  | .feedCr => none
  | .feedLf => none
  | .feedNul => none
  | .feedLower _ => none
  | .feedOther _ => none
  | .pollEmpty => none
  | .rxStd _ => none
  | .rxExt _ => none

/-- Parse as a function of its own (R100, R104), through the decoder; none for the empty line, which is never formed
(R65). -/
def parse (chars : List Byte) : Option ParseResult :=
  match decodeLine chars with
  | .ok i => i.parseResult
  | .error _ => none

/-- The three identifier digits of a notification: id[10:8], id[7:4], id[3:0] (R47, R72). -/
def rxIdDigits (id : Nat) : List Byte :=
  [hexChar (BitVec.ofNat 4 (id / 256 % 8)), hexChar (BitVec.ofNat 4 (id / 16 % 16)),
    hexChar (BitVec.ofNat 4 (id % 16))]

/-- Encode (R120): the notification of a standard frame, nothing for an extended one. Payload bytes beyond the data
length are not read. -/
def encodeFrame (f : RxFrame) : List Byte :=
  if f.ide then []
  else
    chTLower :: (rxIdDigits f.id ++ hexChar (BitVec.ofNat 4 f.dlc)
      :: ((f.data.take f.dlc).flatMap digitsOfByte ++ [cr]))

end Sys2Proof
end

