-- ==== Sys2Proof/Machine/CommandParser.lean ====
section
/-! DEFINITION. Dispatch and the meanings of the LINE rows (41_command_parser.md R101 to R105, 43_dispatch_scheduler.md R135 to
R138, R146). -/

namespace Sys2Proof.Machine

/-- `ok <- send(f)` on port CANTX, and the failure count (R137). BUS is not read (R146). -/
def State.transmit (s : State) (f : TxFrame) : State :=
  (s.record (.send f s.sendAnswer)).countSend s.sendAnswer

/-- The ack: a single CR (R136). -/
def State.ack (s : State) : State := s.emit [cr]

/-- The bell: a single BEL, the answer to errors (a), (b) and (b1) (R136, R156, R157). -/
def State.bell (s : State) : State := s.emit [bel]

/-- DISPATCH (R136). -/
def State.dispatch (s : State) (r : ParseResult) : State :=
  match r with
  | .openBus => (s.applyBus .openBus).ack
  | .closeBus => (s.applyBus .closeBus).ack
  | .transmit f => ((s.applyBus (.transmit f)).transmit f).ack
  | .unrecognized => (s.applyBus .unrecognized).bell

/-- OPEN (R101): what follows the opcode is not read (R67). -/
def execOpenBus (_ignored : List Byte) (s : State) : Result := .next (s.dispatch .openBus)

/-- CLOSE (R102): what follows the opcode is not read (R67). -/
def execCloseBus (_ignored : List Byte) (s : State) : Result := .next (s.dispatch .closeBus)

/-- TRANSMIT (R103). -/
def execTransmit (arg : TxArg) (s : State) : Result := .next (s.dispatch arg.result)

/-- TRANSMIT_LC (R104): as TRANSMIT. -/
def execTransmitLc (arg : TxArg) (s : State) : Result := .next (s.dispatch arg.result)

/-- UNRECOGNIZED (R105). -/
def execUnrecognized (_op : Byte) (_rest : List Byte) (s : State) : Result := .next (s.dispatch .unrecognized)

end Sys2Proof.Machine
end

