-- ==== Sys2Proof/Machine/FrameCodec.lean ====
section
/-! DEFINITION. The meanings of the RXFRAME rows (42_frame_codec.md R121 to R123). -/

namespace Sys2Proof.Machine

/-- POLL_EMPTY (R123): nothing. -/
def execPollEmpty (s : State) : Result := .next s

/-- RX_STD (R121): the notification is emitted. -/
def execRxStd (f : RxFrame) (s : State) : Result := .next (s.emit (encodeFrame f))

/-- RX_EXT (R122): `emit([])`; the frame is dropped and nothing records it. No field of the frame is read. -/
def execRxExt (_f : RxFrame) (s : State) : Result := .next (s.emit [])

end Sys2Proof.Machine
end

