-- ==== Sys2Proof/Machine/LineAssembler.lean ====
section
/-! DEFINITION. The Line Assembler: one meaning per BYTE row (40_line_assembler.md R86 to R90). Feed itself emits nothing;
what it returns is left in `lineOut` (R85). -/

namespace Sys2Proof.Machine

/-- FEED_CR (R86). -/
def execFeedCr (s : State) : Result := .next s.terminate

/-- FEED_LF (R87): as FEED_CR. -/
def execFeedLf (s : State) : Result := .next s.terminate

/-- FEED_NUL (R88): the byte is discarded. -/
def execFeedNul (s : State) : Result := .next s.discard

/-- FEED_LOWER (R89): the letter is stored as b - 0x20. -/
def execFeedLower (b : Byte) (s : State) : Result := .next (s.append (b - 0x20))

/-- FEED_OTHER (R90): the byte is stored unchanged. -/
def execFeedOther (b : Byte) (s : State) : Result := .next (s.append b)

end Sys2Proof.Machine
end

