-- ==== Sys2Proof/Machine/Dispatch.lean ====
section
/-! DEFINITION. One arm per instruction. -/

namespace Sys2Proof.Machine

def exec (i : Instr) (s : State) : Host.Outcome State Fault Refusal :=
  match i with
  -- BYTE rows
  | .feedCr => Sys2Proof.Machine.execFeedCr s
  | .feedLf => Sys2Proof.Machine.execFeedLf s
  | .feedNul => Sys2Proof.Machine.execFeedNul s
  | .feedLower b => Sys2Proof.Machine.execFeedLower b s
  | .feedOther b => Sys2Proof.Machine.execFeedOther b s
  -- LINE rows
  | .openBus ignored => Sys2Proof.Machine.execOpenBus ignored s
  | .closeBus ignored => Sys2Proof.Machine.execCloseBus ignored s
  | .transmit arg => Sys2Proof.Machine.execTransmit arg s
  | .transmitLc arg => Sys2Proof.Machine.execTransmitLc arg s
  | .unrecognized op rest => Sys2Proof.Machine.execUnrecognized op rest s
  -- RXFRAME rows
  | .pollEmpty => Sys2Proof.Machine.execPollEmpty s
  | .rxStd f => Sys2Proof.Machine.execRxStd f s
  | .rxExt f => Sys2Proof.Machine.execRxExt f s

end Sys2Proof.Machine
end

