-- ==== Sys2Proof/Machine/Scheduler.lean ====
section
/-! DEFINITION. The Scheduler Loop iteration (43_dispatch_scheduler.md R139 to R142) over `exec`, and the placing of one
instruction before it. -/

namespace Sys2Proof.Machine

/-- A rejection of the decoder as a refusal. -/
def refusalOf : DecodeReject → Refusal
  | .emptyLine => .emptyLine
  | .answerOutsideType => .answerOutsideType

/-- Decode an input and run its instruction. -/
def runInput (x : Input) (s : State) : Result :=
  match decode s.params x with
  | .ok i => exec i s
  | .error e => .refused (refusalOf e)

/-- If Feed returned a line, it is taken out of the state and dispatched; it is gone afterwards (R28, R139). -/
def runCompletedLine (s : State) : Result :=
  match s.lineOut with
  | none => .next s
  | some chars => runInput (.line chars) { s with lineOut := none }

/-- Phase 1 (R139, R140): at most one byte is consumed and fed, and a completed line is dispatched. -/
def phase1 (inb : Option Byte) (s : State) : Result :=
  match inb with
  | none => .next s
  | some b => andThen (runInput (.byte b) (s.consume b)) runCompletedLine

/-- Phase 2 (R139, R141): while BUS, as phase 1 left it, is OPEN, the controller is polled once. -/
def phase2 (answer : Option RxFrame) (s : State) : Result :=
  match s.bus with
  | .closed => .next s
  | .opened => runInput (.poll answer) (s.polled answer)

/-- One iteration (R139). No line is in flight when it begins (R28). -/
def iterate (d : Draws) (s : State) : Result :=
  andThen (phase1 d.inb s.discard) (phase2 d.answer)

/-- One move: the RESET event, or an iteration; then the next move of the outside comes up. -/
def move (s : State) : Result :=
  match s.stimulus with
  | .reset => .next s.resetEvent.advance
  | .iteration d => andThen (iterate d s) fun t => .next t.advance

/-! Placing an instruction where the next step runs it (log 7). -/

/-- The line buffer with `chars` written from cell `i` on. -/
def storeFrom (m : Memory) : Nat → List Byte → Memory
  | _, [] => m
  | i, c :: cs => storeFrom (m.write i c) (i + 1) cs

/-- The next move is an iteration with these draws. -/
def State.withDraws (s : State) (d : Draws) : State := { s with stimuli := .iteration d :: s.stimuli }

/-- Arrange that the next step runs the instruction an input decodes to: a byte arrives on IN; a line stands in LB and its
terminator arrives; an answer waits at an open CANRX. -/
def State.place (s : State) (x : Input) : State :=
  match x with
  | .byte b => s.withDraws { inb := some b, sendOk := true, answer := none }
  | .line chars =>
    { s with lb := storeFrom s.lb 0 chars, len := chars.length }.withDraws
      { inb := some cr, sendOk := true, answer := none }
  | .poll answer => { s with bus := .opened }.withDraws { inb := none, sendOk := true, answer := answer }

end Sys2Proof.Machine
end

