-- ==== Sys2Proof/Machine/Step.lean ====
section
/-! DEFINITION. The step: one iteration of the Scheduler Loop, or one RESET event (R139, R175). -/

namespace Sys2Proof.Machine

/-- One step. -/
def step (s : State) : Host.Outcome State Fault Refusal := move s

/-- `s` with the instruction of a table word placed where the next step runs it (log 7). -/
def State.withFetchWord (s : State) (nbits w : Nat) : State := s.place (inputOfWord nbits w)

end Sys2Proof.Machine
end

