-- ==== Sys2Proof/Machine/Pseudocode.lean ====
section
/-! DEFINITION. The spec's own pseudocode, transcribed: Feed (R85), Parse and DecodeTransmit (R100), Encode (R120), Dispatch
(R136) and Step (R139), over the registers as a host sees them. It is the vocabulary of statements; `step` does not call
it. -/

namespace Sys2Proof.Pseudo

open Sys2Proof.Machine

/-- BUS, [LB[0], ..., LB[LEN-1]] and TXFAIL: what can be observed of the four registers (R20, R23). -/
@[ext]
structure Regs where
  bus : BusState
  line : List Byte
  txfail : Nat
  deriving DecidableEq, Repr

/-- What a state shows. -/
def Regs.of (s : State) : Regs := { bus := s.bus, line := s.line, txfail := s.txfail }

/-- Feed (R85): the buffer afterwards, and the completed line or none. -/
def feed (cap : Nat) (b : Byte) (buffer : List Byte) : List Byte × Option (List Byte) :=
  if b = 0x0D ∨ b = 0x0A then
    if buffer.length > 0 then ([], some buffer) else (buffer, none)
  else if b = 0x00 then (buffer, none)
  else if buffer.length < cap then (buffer ++ [upper b], none)
  else (buffer, none)

/-- `line[j]`; the pseudocode reads it only for j < |line| (R107). -/
def pos (line : List Byte) (j : Nat) : Byte := line.getD j 0

/-- DecodeTransmit (R100), with the operand assembly of R69. -/
def decodeTransmit (line : List Byte) : ParseResult :=
  if line.length < 5 then .unrecognized
  else if (isHex (pos line 1) && isHex (pos line 2) && isHex (pos line 3) && isHex (pos line 4)) = false then
    .unrecognized
  else
    let id : BitVec 12 :=
      ((hexVal (pos line 1)).setWidth 12 <<< 8) ||| ((hexVal (pos line 2)).setWidth 12 <<< 4)
        ||| (hexVal (pos line 3)).setWidth 12
    let dlc := hexVal (pos line 4)
    let n := min dlc.toNat 8
    if line.length < 5 + 2 * dlc.toNat then .unrecognized
    else if ∀ i < n, isHex (pos line (5 + 2 * i)) ∧ isHex (pos line (6 + 2 * i)) then
      .transmit
        { id := id
          dlc := dlc
          data := (List.range n).map fun i =>
            ((hexVal (pos line (5 + 2 * i))).setWidth 8 <<< 4) ||| (hexVal (pos line (6 + 2 * i))).setWidth 8 }
    else .unrecognized

/-- Parse (R100). -/
def parse (line : List Byte) : ParseResult :=
  if pos line 0 = 0x4F then .openBus
  else if pos line 0 = 0x43 then .closeBus
  else if pos line 0 = 0x54 ∨ pos line 0 = 0x74 then decodeTransmit line
  else .unrecognized

/-- The 4-bit value of bits lo to lo + w - 1 of an identifier (R12, R47). -/
def idField (id lo w : Nat) : BitVec 4 := BitVec.ofNat 4 ((id >>> lo) % 2 ^ w)

/-- Encode (R120, R72). -/
def encode (f : RxFrame) : List Byte :=
  if f.ide then []
  else
    [0x74, hexChar (idField f.id 8 3), hexChar (idField f.id 4 4), hexChar (idField f.id 0 4),
        hexChar (BitVec.ofNat 4 f.dlc)]
      ++ ((List.range f.dlc).flatMap fun i =>
            [hexChar ((f.data.getD i 0).extractLsb' 4 4), hexChar ((f.data.getD i 0).extractLsb' 0 4)])
      ++ [0x0D]

/-- Dispatch (R136): the registers afterwards and the events, `ok` being the controller's answer should `send` be
called. -/
def dispatch (p : Params) (ok : Bool) (pr : ParseResult) (r : Regs) : Regs × List Event :=
  match pr with
  | .openBus => ({ r with bus := .opened }, [.emit [0x0D]])
  | .closeBus => ({ r with bus := .closed }, [.emit [0x0D]])
  | .transmit f =>
    ({ r with txfail := if ok then r.txfail else (r.txfail + 1) % 2 ^ p.txFailW }, [.send f ok, .emit [0x0D]])
  | .unrecognized => (r, [.emit [0x07]])

/-- Phase 1 of Step (R139). -/
def phase1 (p : Params) (d : Draws) (r : Regs) : Regs × List Event :=
  match d.inb with
  | none => (r, [])
  | some b =>
    let fed := feed p.cap b r.line
    match fed.2 with
    | none => ({ r with line := fed.1 }, [.consume b])
    | some line =>
      let done := dispatch p d.sendOk (parse line) { r with line := fed.1 }
      (done.1, .consume b :: done.2)

/-- Phase 2 of Step (R139): the events of the poll, made only while BUS = OPEN. -/
def phase2 (d : Draws) (r : Regs) : List Event :=
  match r.bus, d.answer with
  | .closed, _ => []
  | .opened, none => [.poll none]
  | .opened, some f => .poll (some f) :: if f.ide then [] else [.emit (encode f)]

/-- Step (R139), with the event record of R144. -/
def step (p : Params) (d : Draws) (r : Regs) : Regs × List Event :=
  let one := phase1 p d r
  (one.1, one.2 ++ phase2 d one.1)

end Sys2Proof.Pseudo
end

