-- ==== Sys2Proof/Safety.lean ====
section
/-! DEFINITION. What counts as a legal state and a legal answer of the outside, and the words statements about runs of
bytes and about records use. -/

namespace Sys2Proof.Machine

/-- The duties of the collaborators in one move (R35, R170): a poll answer is an RX frame. -/
def Stimulus.ok (p : Params) : Stimulus → Bool
  | .iteration d => answerOk p d.answer
  | .reset => true

/-- The invariant of the block. -/
structure State.Inv (s : State) : Prop where
  /-- MAXLEN >= 2 (R8). -/
  legal : s.params.legal
  /-- 0 <= LEN <= CAP (R24). -/
  lenLe : s.len ≤ s.cap
  /-- LB is in canonical form. -/
  lbWf : Memory.wf s.lb
  /-- LB has the cells 0 to CAP-1 only (R23). -/
  lbCells : ∀ c ∈ s.lb, c.1 < s.cap
  /-- The stored bytes are line bytes (R25). -/
  lineBytes : ∀ i < s.len, isLineByte (s.lb.read i) = true
  /-- TXFAIL has TXFAIL_W bits (R26). -/
  txfailLt : s.txfail < 2 ^ s.params.txFailW
  /-- No completed line is carried from one step to the next (R28). -/
  noLine : s.lineOut = none

/-- Feed a burst of bytes to the Line Assembler, one after the other (R85). -/
def feedAll : List Byte → State → Result
  | [], s => .next s
  | b :: bs, s => andThen (exec (decodeByte b) s) (feedAll bs)

/-- The poll events of a record. -/
def Event.isPoll : Event → Bool
  | .poll _ => true
  | .consume _ => false
  | .send _ _ => false
  | .emit _ => false

/-- The send events of a record. -/
def Event.isSend : Event → Bool
  | .send _ _ => true
  | .consume _ => false
  | .emit _ => false
  | .poll _ => false

/-- Bytes that add to a line: neither a terminator nor NUL (R75, R93). -/
def isCommandByte (b : Byte) : Bool := !isTerminator b && b != nul

end Sys2Proof.Machine
end

