-- ==== Sys2Proof/Certificates/Slice0/Obligations.lean ====
section
/-! DEFINITION. The statements for the provers. Each docstring names the rule or the section of spec/ it formalises; where
that rule is the spec's own inference or decision, the docstring says so. -/

open Sys2Proof Sys2Proof.Machine

/-! Encoding. -/

/-- 30_encoding.md sections 2, 3 and 6: inputs written out byte by byte decode to the instruction they stand for. -/
def Obligations.TableInputsDecode : Prop :=
  decode Params.default (.byte 0x0D) = .ok .feedCr ∧
  decode Params.default (.byte 0x0A) = .ok .feedLf ∧
  decode Params.default (.byte 0x00) = .ok .feedNul ∧
  decode Params.default (.byte 0x74) = .ok (.feedLower 0x74) ∧
  decode Params.default (.byte 0x7B) = .ok (.feedOther 0x7B) ∧
  decode Params.default (.line [0x4F, 0x58]) = .ok (.openBus [0x58]) ∧
  decode Params.default (.line [0x43]) = .ok (.closeBus []) ∧
  decode Params.default (.line [0x54, 0x30, 0x30, 0x33, 0x32, 0x41, 0x41, 0x42, 0x42])
    = .ok (.transmit (.frame { id := 0x003, dlc := 2, data := [0xAA, 0xBB] } [])) ∧
  decode Params.default (.line [0x74, 0x46, 0x46, 0x46, 0x30])
    = .ok (.transmitLc (.frame { id := 0xFFF, dlc := 0, data := [] } [])) ∧
  decode Params.default (.line [0x53, 0x36]) = .ok (.unrecognized 0x53 [0x36]) ∧
  decode Params.default (.poll none) = .ok .pollEmpty ∧
  decode Params.default (.poll (some { ide := false, id := 0x123, dlc := 1, data := [0x55] }))
    = .ok (.rxStd { ide := false, id := 0x123, dlc := 1, data := [0x55] }) ∧
  decode Params.default (.poll (some { ide := true, id := 0x1ABCDE, dlc := 1, data := [0x55] }))
    = .ok (.rxExt { ide := true, id := 0x1ABCDE, dlc := 1, data := [0x55] })

/-- 30_encoding.md: for every value of the parameters and every well-formed instruction of every row, with every operand
its encoding admits, decoding the encoded input gives the instruction back. -/
def Obligations.DecodeOfEncodeIsIdentity : Prop :=
  ∀ (p : Params) (i : Instr), i.wf p = true → decode p (encode i) = .ok i

/-- 30_encoding.md: no information of an input is lost by decoding it. Two inputs never share an instruction. -/
def Obligations.EncodeOfDecodeIsIdentity : Prop :=
  ∀ (p : Params) (x : Input) (i : Instr), decode p x = .ok i → encode i = x

/-- 30_encoding.md section 7: the opcode map is complete, and an input is decoded in its own format. Only an empty line and
an answer outside the RX frame type have no instruction, each rejected by name (R65, U9). -/
def Obligations.OpcodeMapIsComplete : Prop :=
  ∀ (p : Params),
    (∀ b, ∃ i, decode p (.byte b) = .ok i ∧ i.format = .byte) ∧
    (∀ chars, chars ≠ [] → ∃ i, decode p (.line chars) = .ok i ∧ i.format = .line) ∧
    (∀ answer, answerOk p answer = true → ∃ i, decode p (.poll answer) = .ok i ∧ i.format = .rxframe) ∧
    decode p (.line []) = .error .emptyLine ∧
    (∀ answer, answerOk p answer = false → decode p (.poll answer) = .error .answerOutsideType)

/-- 30_encoding.md section 10: the decoder takes the first row of the input's format, in ascending priority, that
matches. -/
def Obligations.DecoderFollowsTheOpcodeTable : Prop :=
  ∀ (p : Params) (x : Input) (i : Instr), decode p x = .ok i → tableMnemonic x = some i.mnemonic

/-- 30_encoding.md section 2: the byte classes by their ranges. The NUL class and the letter range are the spec's own
decisions ("The NUL class and the exact letter range are the spec's own decisions", R64; D8, D9). -/
def Obligations.ByteClassesHaveTheirRanges : Prop :=
  ∀ b : Byte,
    (decodeByte b = .feedCr ↔ b.toNat = 0x0D) ∧
    (decodeByte b = .feedLf ↔ b.toNat = 0x0A) ∧
    (decodeByte b = .feedNul ↔ b.toNat = 0x00) ∧
    (decodeByte b = .feedLower b ↔ 0x61 ≤ b.toNat ∧ b.toNat ≤ 0x7A) ∧
    (decodeByte b = .feedOther b ↔
      (0x01 ≤ b.toNat ∧ b.toNat ≤ 0x09) ∨ b.toNat = 0x0B ∨ b.toNat = 0x0C ∨
      (0x0E ≤ b.toNat ∧ b.toNat ≤ 0x60) ∨ 0x7B ≤ b.toNat)

/-- What the decoder makes of an admissible input is well formed: every byte, every line the Line Assembler can complete
(R65), every answer of the RX frame type (R35). -/
def Obligations.DecodedInstructionsAreWellFormed : Prop :=
  ∀ (p : Params),
    (∀ b i, decode p (.byte b) = .ok i → i.wf p = true) ∧
    (∀ chars i, lineOk p chars = true → decode p (.line chars) = .ok i → i.wf p = true) ∧
    (∀ answer i, decode p (.poll answer) = .ok i → i.wf p = true)

/-- 30_encoding.md section 4: a transmit line, with either opcode, parses to a frame exactly when it passes the four checks,
and to Unrecognized otherwise. Checks `hdr_hex` and `data_hex` are the spec's own decision ("Checks 2 and 4 are the spec's
own decision", R70; D6). -/
def Obligations.TransmitLineNeedsTheFourChecks : Prop :=
  ∀ (op : Byte) (chars : List Byte), op = 0x54 ∨ op = 0x74 →
    ((∃ f, parse (op :: chars) = some (.transmit f)) ↔
      lenMin chars = true ∧ hdrHex chars = true ∧ lenDlc chars = true ∧ dataHex chars = true) ∧
    (¬ (lenMin chars = true ∧ hdrHex chars = true ∧ lenDlc chars = true ∧ dataHex chars = true) →
      parse (op :: chars) = some .unrecognized)

/-- 30_encoding.md section 4 (R69): the operand values of a transmit line, by character position: ID of 12 bits, DLC as declared,
min(DLC, 8) payload bytes. That a declared length of 9 to 15 is accepted with 8 payload bytes is the "Spec's choice" of D7. -/
def Obligations.TransmitOperandsAreAssembled : Prop :=
  ∀ (op : Byte) (chars : List Byte) (f : TxFrame), op = 0x54 ∨ op = 0x74 →
    parse (op :: chars) = some (.transmit f) →
    f.id.toNat
        = (hexVal ((op :: chars).getD 1 0)).toNat * 256 + (hexVal ((op :: chars).getD 2 0)).toNat * 16
          + (hexVal ((op :: chars).getD 3 0)).toNat ∧
    f.dlc = hexVal ((op :: chars).getD 4 0) ∧
    f.data.length = min f.dlc.toNat 8 ∧
    ∀ i < min f.dlc.toNat 8,
      (f.data.getD i 0).toNat
        = (hexVal ((op :: chars).getD (5 + 2 * i) 0)).toNat * 16
          + (hexVal ((op :: chars).getD (6 + 2 * i) 0)).toNat

/-- 41_command_parser.md section 1 (R100): what the decoder and the operand forms make of a line is Parse, as its pseudocode
reads. Its checks `hdr_hex` and `data_hex` are marked "(decision D6)" there. -/
def Obligations.ParseIsThePseudocode : Prop :=
  ∀ line : List Byte, line ≠ [] → parse line = some (Pseudo.parse line)

/-- 30_encoding.md section 4 (R71, marked [derived] by the spec): with the default line buffer no transmit line of data length
14 or 15 is recognized. -/
def Obligations.DataLengthFourteenNeverFits : Prop :=
  ∀ (op : Byte) (chars : List Byte), op = 0x54 ∨ op = 0x74 → lineOk Params.default (chT :: chars) = true →
    14 ≤ (hexVal ((op :: chars).getD 4 0)).toNat → parse (op :: chars) = some .unrecognized

/-- 41_command_parser.md section 3 (R106, marked [derived] by the spec): two transmit lines long enough for their declared data
length that agree at positions 0 to 4 + 2 * min(DLC, 8) parse alike: the tail is not read. -/
def Obligations.ParseDoesNotReadTheTail : Prop :=
  ∀ (l l' : List Byte),
    let dlc := (hexVal (l.getD 4 0)).toNat
    5 + 2 * dlc ≤ l.length → 5 + 2 * dlc ≤ l'.length →
    l.take (5 + 2 * min dlc 8) = l'.take (5 + 2 * min dlc 8) → parse l = parse l'

/-- 70_reset_and_hazards.md section 3 (R183, marked [derived] by the spec): cutting a command to the 31 bytes of the default line
buffer changes what it parses to only for a transmit command of data length 14 or 15. -/
def Obligations.TruncationKeepsTheParseResult : Prop :=
  ∀ line : List Byte, line ≠ [] →
    ¬ ((line.getD 0 0 = 0x54 ∨ line.getD 0 0 = 0x74) ∧ isHex (line.getD 4 0) = true ∧
        14 ≤ (hexVal (line.getD 4 0)).toNat) →
    parse (line.take 31) = parse line

/-- R120, R72: the encoder of notifications is the pseudocode Encode, for every RX frame. -/
def Obligations.EncodeIsThePseudocode : Prop :=
  ∀ (p : Params) (f : RxFrame), f.ok p = true → encodeFrame f = Pseudo.encode f

/-- 42_frame_codec.md section 3 (R124 and R125, marked [derived] by the spec): a notification has 6 + 2k bytes, begins with
't', ends with CR, and has only uppercase hex digits between; an extended frame has none. -/
def Obligations.NotificationShape : Prop :=
  ∀ (p : Params) (f : RxFrame), f.ok p = true →
    (f.ide = true → encodeFrame f = []) ∧
    (f.ide = false →
      (encodeFrame f).length = 6 + 2 * f.dlc ∧ (encodeFrame f).head? = some 0x74 ∧
      (encodeFrame f).getLast? = some 0x0D ∧
      ∀ j, 1 ≤ j → j ≤ 4 + 2 * f.dlc → isHex ((encodeFrame f).getD j 0) = true)

/-- 42_frame_codec.md section 3 (R128, marked [derived] by the spec): two standard frames give the same notification exactly when
they agree in bits [10:0] of the identifier, the data length and the payload. -/
def Obligations.NotificationIsInjective : Prop :=
  ∀ (p : Params) (f g : RxFrame), f.ok p = true → g.ok p = true → f.ide = false → g.ide = false →
    (encodeFrame f = encodeFrame g ↔ f.id % 2048 = g.id % 2048 ∧ f.dlc = g.dlc ∧ f.data = g.data)

/-- 42_frame_codec.md section 3 (R127, first clause, marked [derived] by the spec; the source's "`decode(encode(frame)) == frame`"):
Parse applied to a notification without its CR gives the frame back. -/
def Obligations.FrameRoundTrip : Prop :=
  ∀ (p : Params) (f : RxFrame), f.ok p = true → f.ide = false → f.id ≤ 0x7FF →
    parse (encodeFrame f).dropLast
      = some (.transmit { id := BitVec.ofNat 12 f.id, dlc := BitVec.ofNat 4 f.dlc, data := f.data })

/-- 42_frame_codec.md section 3 (R127, second clause, marked [derived] by the spec): fed back byte by byte to an empty line buffer
that holds 21 bytes, a notification completes as the same line with opcode 'T', and parses to the same frame. -/
def Obligations.NotificationFedBackRoundTrips : Prop :=
  ∀ (s : State) (f : RxFrame), f.ok s.params = true → f.ide = false → f.id ≤ 0x7FF → 21 ≤ s.cap → s.len = 0 →
    ∃ t, feedAll (encodeFrame f) s = .next t ∧ t.len = 0 ∧
      t.lineOut = some (0x54 :: (encodeFrame f).tail.dropLast) ∧
      parse (0x54 :: (encodeFrame f).tail.dropLast)
        = some (.transmit { id := BitVec.ofNat 12 f.id, dlc := BitVec.ofNat 4 f.dlc, data := f.data })

/-! The Line Assembler. -/

/-- R86, R87: CR and LF return the non-empty line buffer as a line and empty it; with an empty buffer they do nothing. Cells,
BUS, TXFAIL and every port stay as they are. -/
def Obligations.TerminatorCompletesTheLine : Prop :=
  decodeByte 0x0D = .feedCr ∧ decodeByte 0x0A = .feedLf ∧
  ∀ s : State,
    (0 < s.len →
      exec .feedCr s = .next { s with lineOut := some ((List.range s.len).map s.lb.read), len := 0 } ∧
      exec .feedLf s = .next { s with lineOut := some ((List.range s.len).map s.lb.read), len := 0 }) ∧
    (s.len = 0 →
      exec .feedCr s = .next { s with lineOut := none } ∧ exec .feedLf s = .next { s with lineOut := none })

/-- 40_line_assembler.md section 2: a NUL byte is dropped. "Discarding it is the spec's own choice" (R88; D9). -/
def Obligations.NulIsDiscarded : Prop :=
  ∀ s : State, exec .feedNul s = .next { s with lineOut := none }

/-- 40_line_assembler.md section 2 (R89): a lowercase letter is stored as b - 0x20 in cell LEN, LEN counts it, and nothing else
changes; at LEN = CAP it is dropped. "The NUL class and the exact letter range are the spec's own decisions" (R64; D8). -/
def Obligations.LowercaseIsStoredAsUppercase : Prop :=
  ∀ (s : State) (b : Byte), 0x61 ≤ b.toNat → b.toNat ≤ 0x7A →
    decodeByte b = .feedLower b ∧
    (s.len < s.params.maxLen - 1 →
      ∃ t, exec (.feedLower b) s = .next t ∧ t.lb.read s.len = b - 0x20 ∧
        (∀ i, i ≠ s.len → t.lb.read i = s.lb.read i) ∧
        t = { s with lb := t.lb, len := s.len + 1, lineOut := none }) ∧
    (s.params.maxLen - 1 ≤ s.len → exec (.feedLower b) s = .next { s with lineOut := none })

/-- 40_line_assembler.md section 2 (R90): any other byte is stored unchanged in cell LEN, LEN counts it, and nothing else changes;
at LEN = CAP it is dropped. "The NUL class and the exact letter range are the spec's own decisions" (R64; D8, D9). -/
def Obligations.OtherBytesAreStoredUnchanged : Prop :=
  ∀ (s : State) (b : Byte), b ≠ 0x0D → b ≠ 0x0A → b ≠ 0x00 → ¬ (0x61 ≤ b.toNat ∧ b.toNat ≤ 0x7A) →
    decodeByte b = .feedOther b ∧
    (s.len < s.params.maxLen - 1 →
      ∃ t, exec (.feedOther b) s = .next t ∧ t.lb.read s.len = b ∧
        (∀ i, i ≠ s.len → t.lb.read i = s.lb.read i) ∧
        t = { s with lb := t.lb, len := s.len + 1, lineOut := none }) ∧
    (s.params.maxLen - 1 ≤ s.len → exec (.feedOther b) s = .next { s with lineOut := none })

/-- 40_line_assembler.md section 3 (R93, marked [derived] by the spec): from an empty buffer, command bytes and then a terminator
complete the line of the first CAP of them, each uppercased; the rest is lost. -/
def Obligations.BurstIsTruncatedAtCap : Prop :=
  ∀ (s : State) (bytes : List Byte) (e : Byte),
    s.params.legal → s.len = 0 → bytes.all isCommandByte = true → isTerminator e = true →
    ∃ t, feedAll (bytes ++ [e]) s = .next t ∧
      t.lineOut = (if bytes = [] then none else some ((bytes.take s.cap).map upper)) ∧
      t = { s with lb := t.lb, lineOut := t.lineOut }

/-- 40_line_assembler.md section 3 (R92, marked [derived] by the spec): whatever run of terminators follows a terminator completes
no further line. -/
def Obligations.TerminatorRunsCompleteOneLine : Prop :=
  ∀ (s : State) (e : Byte), isTerminator e = true →
    ∃ t, exec (decodeByte e) s = .next t ∧ t.len = 0 ∧
      ∀ more : List Byte, more ≠ [] → more.all isTerminator = true → feedAll more t = .next { t with lineOut := none }

/-- 40_line_assembler.md section 3 (R91, marked [derived] by the spec): in a legal state every line Feed returns has 1 to CAP
bytes, each of them a line byte, and is returned only on a terminator, with LEN = 0 after. -/
def Obligations.CompletedLinesAreLegal : Prop :=
  ∀ (s t : State) (b : Byte) (chars : List Byte), s.Inv → exec (decodeByte b) s = .next t → t.lineOut = some chars →
    lineOk s.params chars = true ∧ isTerminator b = true ∧ 0 < s.len ∧ t.len = 0

/-- 30_encoding.md section 3 (R66, the reachability, marked [derived] by the spec): in a legal state the completed line is never a
TRANSMIT_LC. -/
def Obligations.TransmitLcNeverComesFromIn : Prop :=
  ∀ (s t : State) (b : Byte) (chars : List Byte), s.Inv → exec (decodeByte b) s = .next t → t.lineOut = some chars →
    ∀ arg, decode s.params (.line chars) ≠ .ok (.transmitLc arg)

/-! Dispatch. -/

/-- R101, R102, R135: lines that begin with 'O' and 'C', with any bytes after the opcode, parse to OpenBus and CloseBus; OPEN and
CLOSE write BUS and answer CR, and nothing else changes; `apply` writes BUS only, and only for these two results. -/
def Obligations.OpenAndCloseWriteBus : Prop :=
  ∀ (s : State) (ignored : List Byte),
    parse (0x4F :: ignored) = some .openBus ∧ parse (0x43 :: ignored) = some .closeBus ∧
    (∀ r : ParseResult,
      s.applyBus r
        = { s with bus := if r = .openBus then .opened else if r = .closeBus then .closed else s.bus }) ∧
    exec (.openBus ignored) s = .next { s with bus := .opened, events := s.events ++ [.emit [0x0D]] } ∧
    exec (.closeBus ignored) s = .next { s with bus := .closed, events := s.events ++ [.emit [0x0D]] }

/-- 43_dispatch_scheduler.md section 1 (R137, R138, R146): a well-formed transmit, with either opcode and in either bus state,
sends its frame once, counts a failed send modulo 2^TXFAIL_W, and answers CR whatever the controller answered; nothing else
changes. TXFAIL is "the spec's own addition" (R20; D11), and that BUS does not gate a transmit is its choice too (D5). -/
def Obligations.TransmitSendsAndAcks : Prop :=
  ∀ (s : State) (f : TxFrame) (tail : List Byte) (ok : Bool), s.sendAnswer = ok →
    (let after : State :=
      { s with
        events := s.events ++ [.send f ok, .emit [0x0D]]
        txfail := if ok = true then s.txfail else (s.txfail + 1) % 2 ^ s.params.txFailW }
     exec (.transmit (.frame f tail)) s = .next after ∧ exec (.transmitLc (.frame f tail)) s = .next after)

/-- 41_command_parser.md section 2 and 60_exceptions.md section 1 (R105, R156, R157): an unrecognized command and a malformed transmit answer BEL; no register is written and nothing is
sent. -/
def Obligations.ErrorsRingTheBell : Prop :=
  ∀ (s : State) (op : Byte) (rest : List Byte),
    (op ≠ 0x4F → op ≠ 0x43 → op ≠ 0x54 → op ≠ 0x74 →
      decode s.params (.line (op :: rest)) = .ok (.unrecognized op rest)) ∧
    exec (.unrecognized op rest) s = .next { s with events := s.events ++ [.emit [0x07]] } ∧
    exec (.transmit (.malformed rest)) s = .next { s with events := s.events ++ [.emit [0x07]] } ∧
    exec (.transmitLc (.malformed rest)) s = .next { s with events := s.events ++ [.emit [0x07]] }

/-- 43_dispatch_scheduler.md section 1 (R136): exactly one response byte is put on OUT per completed line, BEL when it parses to
Unrecognized and CR otherwise, and the registers and events are those of the pseudocode Dispatch. What parses to Unrecognized
rests on D6, and TXFAIL on D11, both the "Spec's choice". -/
def Obligations.OneResponsePerLine : Prop :=
  ∀ (s : State) (line : List Byte) (i : Instr), decode s.params (.line line) = .ok i →
    ∃ t, exec i s = .next t ∧
      t.out = s.out ++ [if Pseudo.parse line = .unrecognized then 0x07 else 0x0D] ∧
      (Pseudo.Regs.of t, t.events)
        = ((Pseudo.dispatch s.params s.sendAnswer (Pseudo.parse line) (Pseudo.Regs.of s)).1,
            s.events ++ (Pseudo.dispatch s.params s.sendAnswer (Pseudo.parse line) (Pseudo.Regs.of s)).2)

/-! The Frame Codec. -/

/-- R121: a standard frame is put on OUT as the notification of R120, of 6 + 2k bytes; no register is written. -/
def Obligations.StandardFrameIsNotified : Prop :=
  ∀ (p : Params) (s : State) (f : RxFrame), f.ok p = true → f.ide = false →
    exec (.rxStd f) s = .next { s with events := s.events ++ [.emit (Pseudo.encode f)] } ∧
    (Pseudo.encode f).length = 6 + 2 * f.dlc

/-- R122, R123: an extended frame and an empty poll put nothing on OUT and write nothing. -/
def Obligations.ExtendedFrameAndEmptyPollAreSilent : Prop :=
  ∀ (s : State) (f : RxFrame), exec (.rxExt f) s = .next s ∧ exec .pollEmpty s = .next s

/-! Frames over all instructions. -/

/-- What each instruction leaves unchanged: no instruction writes the parameters or the outside's moves; only BYTE rows write
LB, LEN and the line in flight, and of LB only cell LEN, by FEED_LOWER and FEED_OTHER below CAP; BYTE rows use no other port;
only OPEN and CLOSE write BUS (R21); only the two transmits write TXFAIL (R26). -/
def Obligations.RegistersKeptByEachInstruction : Prop :=
  ∀ (i : Instr) (s t : State), exec i s = .next t →
    t.params = s.params ∧ t.stimuli = s.stimuli ∧ t.tick = s.tick ∧
    (i.format ≠ .byte → t.lb = s.lb ∧ t.len = s.len ∧ t.lineOut = s.lineOut) ∧
    (i.format = .byte → t.events = s.events) ∧
    (∀ j, ¬ (j = s.len ∧ s.len < s.cap ∧ ∃ b, i = .feedLower b ∨ i = .feedOther b) →
      t.lb.read j = s.lb.read j) ∧
    ((∀ ignored, i ≠ .openBus ignored ∧ i ≠ .closeBus ignored) → t.bus = s.bus) ∧
    ((∀ arg, i ≠ .transmit arg ∧ i ≠ .transmitLc arg) → t.txfail = s.txfail)

/-! The step. -/

/-- A step runs the decoded instructions: in an iteration the input byte is consumed and its instruction executed; a line it
returns is taken out of the state and its instruction executed; while BUS is OPEN the poll is recorded and its answer's
instruction executed; then the next move comes up. -/
def Obligations.StepRunsTheDecodedInstructions : Prop :=
  ∀ (s : State) (d : Draws), s.stimulus = .iteration d →
    (step s = andThen (phase1 d.inb { s with lineOut := none })
        fun t => andThen (phase2 d.answer t) fun u =>
          .next { u with stimuli := u.stimuli.tail, tick := u.tick + 1 }) ∧
    (∀ t : State, phase1 none t = .next t) ∧
    (∀ (t : State) (b : Byte) (i : Instr), decode t.params (.byte b) = .ok i →
      phase1 (some b) t
        = andThen (exec i { t with events := t.events ++ [.consume b] }) runCompletedLine) ∧
    (∀ t : State, t.lineOut = none → runCompletedLine t = .next t) ∧
    (∀ (t : State) (chars : List Byte) (i : Instr), t.lineOut = some chars → decode t.params (.line chars) = .ok i →
      runCompletedLine t = exec i { t with lineOut := none }) ∧
    (∀ t : State, t.bus = .closed → phase2 d.answer t = .next t) ∧
    (∀ (t : State) (i : Instr), t.bus = .opened → decode t.params (.poll d.answer) = .ok i →
      phase2 d.answer t = exec i { t with events := t.events ++ [.poll d.answer] })

/-- 43_dispatch_scheduler.md section 2 (R139, R143): for every draw of the outside, an iteration of the machine is the pseudocode
Step: the same BUS, line and TXFAIL afterwards, and the same events in the same order. Step calls Feed, Parse and Dispatch,
which rest on the "Spec's choice" of D6, D8, D9 and D11. -/
def Obligations.StepIsThePseudocode : Prop :=
  ∀ (s : State) (d : Draws), s.stimulus = .iteration d → answerOk s.params d.answer = true →
    ∃ t, step s = .next t ∧
      Pseudo.Regs.of t = (Pseudo.step s.params d (Pseudo.Regs.of s)).1 ∧
      t.events = s.events ++ (Pseudo.step s.params d (Pseudo.Regs.of s)).2 ∧
      t.params = s.params ∧ t.lineOut = none ∧ t.stimuli = s.stimuli.tail ∧ t.tick = s.tick + 1

/-- 93_implementation_defined.md U9: an answer outside the RX frame type stops the step by name exactly when it is consulted,
that is when BUS is OPEN after phase 1; while BUS is CLOSED the step completes. -/
def Obligations.AnswerOutsideTheTypeIsRefused : Prop :=
  ∀ (s : State) (d : Draws), s.stimulus = .iteration d → answerOk s.params d.answer = false →
    ((Pseudo.phase1 s.params d (Pseudo.Regs.of s)).1.bus = .opened → step s = .refused .answerOutsideType) ∧
    ((Pseudo.phase1 s.params d (Pseudo.Regs.of s)).1.bus = .closed → ∃ t, step s = .next t ∧ t.bus = .closed)

/-- 43_dispatch_scheduler.md section 2 and 00_scope.md section 5: a step always completes. From every state whose next move, scripted
or free, keeps the collaborators' duties (R170), the step answers a next state. -/
def Obligations.EveryStepCompletes : Prop :=
  ∀ s : State, (∀ x, s.stimuli.head? = some x → x.ok s.params = true) → ∃ t, step s = .next t

/-- The invariant of the block is kept by every step: LEN within CAP (R24), LB canonical and within its cells (R23), the stored
bytes line bytes (R25, marked [derived] by the spec), TXFAIL within its width (R26), no line carried over (R28). -/
def Obligations.InvariantIsKept : Prop :=
  ∀ s t : State, s.Inv → step s = .next t → t.Inv

/-- The invariant holds after reset. -/
def Obligations.InvariantHoldsAtReset : Prop := State.reset.Inv

/-- 10_state.md section 4 (R37): the values the spec gives for reset. BUS is the source's; of LEN R24 says "this reset value is the
spec's own choice" (D10), and TXFAIL is "the spec's own addition" (R20; D11). -/
def Obligations.ResetLeavesTheStatedValues : Prop :=
  State.reset.bus = .opened ∧ State.reset.len = 0 ∧ State.reset.line = [] ∧ State.reset.txfail = 0

/-- 70_reset_and_hazards.md section 1: the RESET event gives every register its reset value, whatever it held, and discards a partial line; nothing is
emitted, sent or polled, and the collaborators' further moves stay. That a RESET event is a move of its own, between
iterations, is the model's form (log 4). -/
def Obligations.ResetEventRestoresTheRegisters : Prop :=
  ∀ s : State, s.stimulus = .reset →
    ∃ t, step s = .next t ∧ t.bus = .opened ∧ t.len = 0 ∧ t.line = [] ∧ t.txfail = 0 ∧ t.lineOut = none ∧
      t.events = s.events ∧ t.stimuli = s.stimuli.tail ∧ t.params = s.params

/-- R141: the poll is made exactly when BUS is OPEN as phase 1 left it; a line that parsed to OpenBus in the same step makes it, one
that parsed to CloseBus suppresses it; with BUS CLOSED nothing but acks and bells is emitted. -/
def Obligations.PollFollowsBus : Prop :=
  ∀ (s t : State) (d : Draws), s.stimulus = .iteration d → step s = .next t →
    ∃ es, t.events = s.events ++ es ∧
      es.filter Event.isPoll = (if t.bus = .opened then [.poll d.answer] else []) ∧
      (t.bus = .closed → ∀ bytes, .emit bytes ∈ es → bytes = [0x0D] ∨ bytes = [0x07]) ∧
      (∀ b, d.inb = some b → isTerminator b = true → 0 < s.len →
        (Pseudo.parse s.line = .openBus → t.bus = .opened) ∧
        (Pseudo.parse s.line = .closeBus → t.bus = .closed))

/-- 10_state.md section 1 (R21): BUS is "mutated only by the 'O'/'C' commands": an iteration that changes it completed a line whose
first byte is 'O' or 'C'. -/
def Obligations.BusChangesOnlyByOpenOrClose : Prop :=
  ∀ (s t : State) (d : Draws), s.stimulus = .iteration d → step s = .next t → t.bus ≠ s.bus →
    ∃ b, d.inb = some b ∧ isTerminator b = true ∧ 0 < s.len ∧
      ((s.lb.read 0 = 0x4F ∧ t.bus = .opened) ∨ (s.lb.read 0 = 0x43 ∧ t.bus = .closed))

/-- 10_state.md section 1 (R26; TXFAIL is "the spec's own addition", R20, D11): TXFAIL counts, modulo 2^TXFAIL_W, the sends of an
iteration that were answered with failure, and nothing else writes it; there is at most one send, recorded once. -/
def Obligations.TxfailCountsFailedSends : Prop :=
  ∀ (s t : State) (d : Draws), s.stimulus = .iteration d → step s = .next t →
    ∃ es, t.events = s.events ++ es ∧
      (es.filter Event.isSend = [] ∧ t.txfail = s.txfail ∨
        ∃ f, es.filter Event.isSend = [.send f d.sendOk] ∧
          t.txfail = (if d.sendOk = true then s.txfail else (s.txfail + 1) % 2 ^ s.params.txFailW))

/-- 20_memory.md section 5 and 10_state.md section 2 (R31 and R56, marked [derived] by the spec): a step only appends to OUT, at most
23 bytes: none, one response, a notification of 6 to 22 bytes, or both. -/
def Obligations.StepAppendsAtMostTwentyThreeBytes : Prop :=
  ∀ s t : State, step s = .next t →
    ∃ bytes, t.out = s.out ++ bytes ∧
      (bytes.length ≤ 1 ∨ (6 ≤ bytes.length ∧ bytes.length ≤ 22) ∨ (7 ≤ bytes.length ∧ bytes.length ≤ 23))

/-- 10_state.md section 1 and 43_dispatch_scheduler.md section 2 (R23, R143): the observable registers and the draws alone determine
an iteration. Two states may differ in the cells of LB at index LEN and above, in the record and in the further moves. -/
def Obligations.RegistersAndDrawsDetermineTheStep : Prop :=
  ∀ (s s' t : State) (d : Draws), s.params = s'.params → Pseudo.Regs.of s = Pseudo.Regs.of s' →
    s.stimulus = .iteration d → s'.stimulus = .iteration d → step s = .next t →
    ∃ (t' : State) (es : List Event), step s' = .next t' ∧ Pseudo.Regs.of t' = Pseudo.Regs.of t ∧
      t.events = s.events ++ es ∧ t'.events = s'.events ++ es

/-- 10_state.md section 1 (R26): TXFAIL has no effect on any response: with another count the step has the same events, BUS and
line. -/
def Obligations.TxfailIsNotSeenOnTheWire : Prop :=
  ∀ (s t : State) (n : Nat), step s = .next t →
    ∃ m, step { s with txfail := n } = .next { t with txfail := m }

/-- 10_state.md section 1 (R28): no completed line is carried from one step to the next, and a step would not read one. -/
def Obligations.NoLineIsCarriedBetweenSteps : Prop :=
  ∀ (s : State) (l : Option (List Byte)),
    (∀ t, step s = .next t → t.stimuli = s.stimuli.tail ∧ t.lineOut = none) ∧
    step { s with lineOut := l } = step s

/-- 10_state.md section 1 (R24, R10): LEN fits its register of ceil(log2(CAP + 1)) bits, 5 by default. -/
def Obligations.LenFitsItsRegister : Prop :=
  (∀ s : State, s.Inv → s.len < 2 ^ s.params.lenW) ∧ Params.default.lenW = 5

/-- 43_dispatch_scheduler.md section 2 (R147): the status outputs show BUS and TXFAIL, 1 for OPEN and 0 for CLOSED, as functions of
the state. The outputs and their polarity are the "Spec's choice" of D12 and D24. -/
def Obligations.StatusOutputsShowBusAndTxfail : Prop :=
  ∀ s : State,
    (s.bus = .opened → s.busOpen = 1) ∧ (s.bus = .closed → s.busOpen = 0) ∧
    (s.Inv → s.txfailCount.toNat = s.txfail)
end

