-- ==== Sys2Proof/Laws/Chars.lean ====
section
/-! SUPPORT. Laws of the character primitives and of the transmit operands. -/

namespace Sys2Proof

/-- Every digit HexChar writes is read back by HexVal (R16). -/
@[simp] theorem hexVal?_hexChar : ∀ v : BitVec 4, hexVal? (hexChar v) = some v := by decide

/-- Only uppercase digits are read, so HexVal loses nothing (R16). -/
theorem hexChar_of_hexVal? : ∀ (b : Byte) (v : BitVec 4), hexVal? b = some v → hexChar v = b := by
  have h : ∀ b : Byte, ∀ v : BitVec 4, hexVal? b = some v → hexChar v = b := by
    intro b v hb
    have key : ∀ b : Byte, isHex b = true → hexChar (hexVal b) = b := by decide
    unfold hexVal? at hb
    split at hb
    · cases hb; exact key b (by assumption)
    · cases hb
  exact h

theorem hexVal?_of_isHex {b : Byte} (h : isHex b = true) : hexVal? b = some (hexVal b) := if_pos h

theorem hexVal?_of_not_isHex {b : Byte} (h : isHex b = false) : hexVal? b = none := by simp [hexVal?, h]

theorem hexVal?_eq_some_iff {b : Byte} {v : BitVec 4} : hexVal? b = some v ↔ isHex b = true ∧ v = hexVal b := by
  unfold hexVal?
  split
  · rename_i h
    exact ⟨fun e => ⟨h, (Option.some.inj e).symm⟩, fun e => by rw [e.2]⟩
  · rename_i h
    exact ⟨fun e => (nomatch e), fun e => absurd e.1 h⟩

theorem isHex_hexChar : ∀ v : BitVec 4, isHex (hexChar v) = true := by decide

theorem hexVal_hexChar : ∀ v : BitVec 4, hexVal (hexChar v) = v := by decide

theorem hexChar_injective {v w : BitVec 4} (h : hexChar v = hexChar w) : v = w := by
  simpa using congrArg hexVal? h

/-- An uppercase digit is a line byte, so the assembler stores it unchanged. -/
theorem isLineByte_hexChar : ∀ v : BitVec 4, isLineByte (hexChar v) = true := by decide

theorem decodeByte_hexChar : ∀ v : BitVec 4, decodeByte (hexChar v) = .feedOther (hexChar v) := by decide

/-- The digits of a byte put it together again (R48). -/
@[simp] theorem byteOfDigits_extract : ∀ b : Byte, byteOfDigits (b.extractLsb' 4 4) (b.extractLsb' 0 4) = b := by decide

/-- A byte of two digits is 16 times the first plus the second (R69). -/
theorem byteOfDigits_toNat : ∀ h l : BitVec 4, (byteOfDigits h l).toNat = h.toNat * 16 + l.toNat := by decide

theorem digitsOfByte_byteOfDigits : ∀ h l : BitVec 4, digitsOfByte (byteOfDigits h l) = [hexChar h, hexChar l] := by decide

@[simp] theorem digitsOfByte_length (b : Byte) : (digitsOfByte b).length = 2 := rfl

@[simp] theorem flatMap_digits_length (data : List Byte) : (data.flatMap digitsOfByte).length = 2 * data.length := by
  induction data with
  | nil => rfl
  | cons b bs ih => simp [ih]; omega

theorem payloadLen_le (d : BitVec 4) : payloadLen d ≤ 8 := Nat.min_le_right _ _

theorem payloadLen_le_toNat (d : BitVec 4) : payloadLen d ≤ d.toNat := Nat.min_le_left _ _

/-- Taking pairs undoes writing them. -/
theorem takePairs_digits (data tail : List Byte) :
    takePairs data.length (data.flatMap digitsOfByte ++ tail) = some (data, tail) := by
  induction data with
  | nil => rfl
  | cons b bs ih => simp [takePairs, digitsOfByte, ih]

/-- What pairs were taken, written again, gives the characters back. -/
theorem digits_of_takePairs : ∀ (n : Nat) (cs data tail : List Byte), takePairs n cs = some (data, tail) →
    data.length = n ∧ cs = data.flatMap digitsOfByte ++ tail
  | 0, cs, data, tail, h => by
    simp only [takePairs, Option.some.injEq, Prod.mk.injEq] at h
    obtain ⟨rfl, rfl⟩ := h
    exact ⟨rfl, rfl⟩
  | n + 1, [], _, _, h => by simp [takePairs] at h
  | n + 1, [_], _, _, h => by simp [takePairs] at h
  | n + 1, hi :: lo :: cs, data, tail, h => by
    simp only [takePairs] at h
    split at h
    · rename_i a b ha hb
      cases ht : takePairs n cs with
      | none => simp [ht] at h
      | some r =>
        simp only [ht, Option.map_some, Option.some.injEq, Prod.mk.injEq] at h
        obtain ⟨rfl, rfl⟩ := h
        obtain ⟨hl, hc⟩ := digits_of_takePairs n cs r.1 r.2 ht
        refine ⟨by simp [hl], ?_⟩
        simp only [List.flatMap_cons, digitsOfByte_byteOfDigits, hexChar_of_hexVal? _ _ ha, hexChar_of_hexVal? _ _ hb]
        simpa using hc
    · cases h

theorem idOfDigits_toNat (h1 h2 h3 : BitVec 4) :
    (idOfDigits h1 h2 h3).toNat = h1.toNat * 256 + h2.toNat * 16 + h3.toNat := by
  have := h1.isLt; have := h2.isLt; have := h3.isLt
  simp only [idOfDigits, BitVec.toNat_ofNat]
  omega

/-- The three identifier digits put the identifier together again (R47). -/
theorem idOfDigits_extract (id : BitVec 12) :
    idOfDigits (id.extractLsb' 8 4) (id.extractLsb' 4 4) (id.extractLsb' 0 4) = id := by
  have := id.isLt
  apply BitVec.eq_of_toNat_eq
  rw [idOfDigits_toNat]
  simp only [BitVec.extractLsb'_toNat, Nat.shiftRight_eq_div_pow]
  omega

theorem idDigits_idOfDigits (h1 h2 h3 : BitVec 4) :
    idDigits (idOfDigits h1 h2 h3) = [hexChar h1, hexChar h2, hexChar h3] := by
  have := h1.isLt; have := h2.isLt; have := h3.isLt
  have e1 : (idOfDigits h1 h2 h3).extractLsb' 8 4 = h1 := by
    apply BitVec.eq_of_toNat_eq
    simp only [BitVec.extractLsb'_toNat, Nat.shiftRight_eq_div_pow, idOfDigits_toNat]; omega
  have e2 : (idOfDigits h1 h2 h3).extractLsb' 4 4 = h2 := by
    apply BitVec.eq_of_toNat_eq
    simp only [BitVec.extractLsb'_toNat, Nat.shiftRight_eq_div_pow, idOfDigits_toNat]; omega
  have e3 : (idOfDigits h1 h2 h3).extractLsb' 0 4 = h3 := by
    apply BitVec.eq_of_toNat_eq
    simp only [BitVec.extractLsb'_toNat, Nat.shiftRight_eq_div_pow, idOfDigits_toNat]; omega
  simp only [idDigits, e1, e2, e3]

end Sys2Proof
end

