-- ==== Sys2Proof/Laws/Memory.lean ====
section
/-! SUPPORT. Laws of the line buffer's cells: a read after a write, and the canonical form. -/

namespace Sys2Proof.Machine

@[simp] theorem Memory.read_nil (i : Nat) : Memory.read [] i = lbBlank := rfl

theorem Memory.read_insert (m : Memory) (i j : Nat) (v : Byte) (h : ∀ c ∈ m, c.1 ≠ i) :
    (Memory.insert m i v).read j = if i = j then v else m.read j := by
  induction m with
  | nil => rfl
  | cons c m ih =>
    obtain ⟨a, w⟩ := c
    have ha : a ≠ i := h (a, w) (by simp)
    have ih := ih fun c hc => h c (by simp [hc])
    unfold Memory.insert
    split
    · rfl
    · simp only [Memory.read, ih]
      split_ifs <;> simp_all

theorem Memory.read_filter (m : Memory) (i j : Nat) :
    Memory.read (m.filter fun c => c.1 != i) j = if i = j then lbBlank else m.read j := by
  induction m with
  | nil => simp
  | cons c m ih =>
    obtain ⟨a, w⟩ := c
    by_cases h : a = i
    · subst h
      simp only [List.filter_cons, bne_self_eq_false, Bool.false_eq_true, if_false, ih, Memory.read]
      split_ifs <;> rfl
    · simp only [List.filter_cons, bne_iff_ne, ne_eq, h, not_false_eq_true, if_true, Memory.read, ih]
      split_ifs <;> simp_all

/-- The one law of reads after writes. -/
theorem Memory.read_write (m : Memory) (i j : Nat) (v : Byte) :
    (m.write i v).read j = if i = j then v else m.read j := by
  unfold Memory.write
  split
  · rename_i h; rw [Memory.read_filter, h]
  · rw [Memory.read_insert _ _ _ _ (by simp), Memory.read_filter]
    split_ifs <;> rfl

@[simp] theorem Memory.read_write_same (m : Memory) (i : Nat) (v : Byte) : (m.write i v).read i = v := by
  simp [Memory.read_write]

theorem Memory.read_write_of_ne (m : Memory) {i j : Nat} (v : Byte) (h : j ≠ i) : (m.write i v).read j = m.read j := by
  simp [Memory.read_write, h.symm]

/-- The cells listed after a write. -/
theorem Memory.mem_insert {m : Memory} {i : Nat} {v : Byte} {c : Host.Cell} :
    c ∈ Memory.insert m i v ↔ c = (i, v) ∨ c ∈ m := by
  induction m with
  | nil => simp [Memory.insert]
  | cons d m ih =>
    unfold Memory.insert
    split
    · simp
    · simp only [List.mem_cons, ih]; tauto

theorem Memory.mem_write {m : Memory} {i : Nat} {v : Byte} {c : Host.Cell} (h : c ∈ m.write i v) :
    (c = (i, v) ∧ v ≠ lbBlank) ∨ (c ∈ m ∧ c.1 ≠ i) := by
  unfold Memory.write at h
  split at h
  · simp only [List.mem_filter, bne_iff_ne, ne_eq] at h; exact Or.inr h
  · rename_i hv
    rcases Memory.mem_insert.mp h with h | h
    · exact Or.inl ⟨h, hv⟩
    · simp only [List.mem_filter, bne_iff_ne, ne_eq] at h; exact Or.inr h

theorem Memory.insert_rising {m : Memory} {i : Nat} {v : Byte} (h : ∀ c ∈ m, c.1 ≠ i)
    (hm : m.Pairwise fun c d => c.1 < d.1) : (Memory.insert m i v).Pairwise fun c d => c.1 < d.1 := by
  induction m with
  | nil => simp [Memory.insert]
  | cons d m ih =>
    obtain ⟨a, w⟩ := d
    have ha : a ≠ i := h (a, w) (by simp)
    obtain ⟨h1, h2⟩ := List.pairwise_cons.mp hm
    unfold Memory.insert
    split
    · rename_i hlt
      refine List.pairwise_cons.mpr ⟨fun c hc => ?_, hm⟩
      rcases List.mem_cons.mp hc with rfl | hc
      · exact hlt
      · exact Nat.lt_trans hlt (h1 c hc)
    · refine List.pairwise_cons.mpr ⟨fun c hc => ?_, ih (fun c hc => h c (by simp [hc])) h2⟩
      rcases Memory.mem_insert.mp hc with rfl | hc
      · show a < i; omega
      · exact h1 c hc

/-- Every memory operation keeps the canonical form. -/
theorem Memory.write_wf {m : Memory} (hm : m.wf) (i : Nat) (v : Byte) : (m.write i v).wf := by
  constructor
  · have hf : (m.filter fun c => c.1 != i).Pairwise fun c d => c.1 < d.1 := hm.1.filter _
    unfold Memory.write
    split
    · exact hf
    · exact Memory.insert_rising (by simp) hf
  · intro c hc
    rcases Memory.mem_write hc with ⟨rfl, hv⟩ | ⟨hc, _⟩
    · exact hv
    · exact hm.2 c hc

theorem State.reset_lb_wf : State.reset.lb.wf := by decide

end Sys2Proof.Machine
end

