-- ==== Sys2Proof/Laws/State.lean ====
section
/-! SUPPORT. What each operation does to each field of the state: one lemma per field. -/

namespace Sys2Proof.Machine

variable (s : State)


@[simp] theorem State.terminate_params : s.terminate.params = s.params := by unfold State.terminate; split <;> rfl
@[simp] theorem State.terminate_bus : s.terminate.bus = s.bus := by unfold State.terminate; split <;> rfl
@[simp] theorem State.terminate_lb : s.terminate.lb = s.lb := by unfold State.terminate; split <;> rfl
@[simp] theorem State.terminate_txfail : s.terminate.txfail = s.txfail := by unfold State.terminate; split <;> rfl
@[simp] theorem State.terminate_stimuli : s.terminate.stimuli = s.stimuli := by unfold State.terminate; split <;> rfl
@[simp] theorem State.terminate_tick : s.terminate.tick = s.tick := by unfold State.terminate; split <;> rfl
@[simp] theorem State.terminate_events : s.terminate.events = s.events := by unfold State.terminate; split <;> rfl
@[simp] theorem State.terminate_len : s.terminate.len = 0 := by
  unfold State.terminate; split
  · rfl
  · show s.len = 0; omega
@[simp] theorem State.terminate_lineOut : s.terminate.lineOut = if 0 < s.len then some s.line else none := by unfold State.terminate; split <;> rfl

@[simp] theorem State.append_params (c : Byte) : (s.append c).params = s.params := by unfold State.append; split <;> rfl
@[simp] theorem State.append_bus (c : Byte) : (s.append c).bus = s.bus := by unfold State.append; split <;> rfl
@[simp] theorem State.append_txfail (c : Byte) : (s.append c).txfail = s.txfail := by unfold State.append; split <;> rfl
@[simp] theorem State.append_stimuli (c : Byte) : (s.append c).stimuli = s.stimuli := by unfold State.append; split <;> rfl
@[simp] theorem State.append_tick (c : Byte) : (s.append c).tick = s.tick := by unfold State.append; split <;> rfl
@[simp] theorem State.append_events (c : Byte) : (s.append c).events = s.events := by unfold State.append; split <;> rfl
@[simp] theorem State.append_lb (c : Byte) : (s.append c).lb = if s.len < s.cap then s.lb.write s.len c else s.lb := by unfold State.append; split <;> rfl
@[simp] theorem State.append_len (c : Byte) : (s.append c).len = if s.len < s.cap then s.len + 1 else s.len := by unfold State.append; split <;> rfl
@[simp] theorem State.append_lineOut (c : Byte) : (s.append c).lineOut = none := by unfold State.append; split <;> rfl

@[simp] theorem State.discard_params : s.discard.params = s.params := rfl
@[simp] theorem State.discard_bus : s.discard.bus = s.bus := rfl
@[simp] theorem State.discard_lb : s.discard.lb = s.lb := rfl
@[simp] theorem State.discard_len : s.discard.len = s.len := rfl
@[simp] theorem State.discard_txfail : s.discard.txfail = s.txfail := rfl
@[simp] theorem State.discard_stimuli : s.discard.stimuli = s.stimuli := rfl
@[simp] theorem State.discard_tick : s.discard.tick = s.tick := rfl
@[simp] theorem State.discard_events : s.discard.events = s.events := rfl
@[simp] theorem State.discard_lineOut : s.discard.lineOut = none := rfl

@[simp] theorem State.advance_params : s.advance.params = s.params := rfl
@[simp] theorem State.advance_bus : s.advance.bus = s.bus := rfl
@[simp] theorem State.advance_lb : s.advance.lb = s.lb := rfl
@[simp] theorem State.advance_len : s.advance.len = s.len := rfl
@[simp] theorem State.advance_txfail : s.advance.txfail = s.txfail := rfl
@[simp] theorem State.advance_lineOut : s.advance.lineOut = s.lineOut := rfl
@[simp] theorem State.advance_events : s.advance.events = s.events := rfl
@[simp] theorem State.advance_stimuli : s.advance.stimuli = s.stimuli.tail := rfl
@[simp] theorem State.advance_tick : s.advance.tick = s.tick + 1 := rfl

@[simp] theorem State.record_params (e : Event) : (s.record e).params = s.params := rfl
@[simp] theorem State.record_bus (e : Event) : (s.record e).bus = s.bus := rfl
@[simp] theorem State.record_lb (e : Event) : (s.record e).lb = s.lb := rfl
@[simp] theorem State.record_len (e : Event) : (s.record e).len = s.len := rfl
@[simp] theorem State.record_txfail (e : Event) : (s.record e).txfail = s.txfail := rfl
@[simp] theorem State.record_lineOut (e : Event) : (s.record e).lineOut = s.lineOut := rfl
@[simp] theorem State.record_stimuli (e : Event) : (s.record e).stimuli = s.stimuli := rfl
@[simp] theorem State.record_tick (e : Event) : (s.record e).tick = s.tick := rfl
@[simp] theorem State.record_events (e : Event) : (s.record e).events = s.events ++ [e] := rfl

@[simp] theorem State.consume_params (b : Byte) : (s.consume b).params = s.params := rfl
@[simp] theorem State.consume_bus (b : Byte) : (s.consume b).bus = s.bus := rfl
@[simp] theorem State.consume_lb (b : Byte) : (s.consume b).lb = s.lb := rfl
@[simp] theorem State.consume_len (b : Byte) : (s.consume b).len = s.len := rfl
@[simp] theorem State.consume_txfail (b : Byte) : (s.consume b).txfail = s.txfail := rfl
@[simp] theorem State.consume_lineOut (b : Byte) : (s.consume b).lineOut = s.lineOut := rfl
@[simp] theorem State.consume_stimuli (b : Byte) : (s.consume b).stimuli = s.stimuli := rfl
@[simp] theorem State.consume_tick (b : Byte) : (s.consume b).tick = s.tick := rfl
@[simp] theorem State.consume_events (b : Byte) : (s.consume b).events = s.events ++ [.consume b] := rfl

@[simp] theorem State.polled_params (a : Option RxFrame) : (s.polled a).params = s.params := rfl
@[simp] theorem State.polled_bus (a : Option RxFrame) : (s.polled a).bus = s.bus := rfl
@[simp] theorem State.polled_lb (a : Option RxFrame) : (s.polled a).lb = s.lb := rfl
@[simp] theorem State.polled_len (a : Option RxFrame) : (s.polled a).len = s.len := rfl
@[simp] theorem State.polled_txfail (a : Option RxFrame) : (s.polled a).txfail = s.txfail := rfl
@[simp] theorem State.polled_lineOut (a : Option RxFrame) : (s.polled a).lineOut = s.lineOut := rfl
@[simp] theorem State.polled_stimuli (a : Option RxFrame) : (s.polled a).stimuli = s.stimuli := rfl
@[simp] theorem State.polled_tick (a : Option RxFrame) : (s.polled a).tick = s.tick := rfl
@[simp] theorem State.polled_events (a : Option RxFrame) : (s.polled a).events = s.events ++ [.poll a] := rfl

@[simp] theorem State.emit_params (bs : List Byte) : (s.emit bs).params = s.params := by unfold State.emit; split <;> rfl
@[simp] theorem State.emit_bus (bs : List Byte) : (s.emit bs).bus = s.bus := by unfold State.emit; split <;> rfl
@[simp] theorem State.emit_lb (bs : List Byte) : (s.emit bs).lb = s.lb := by unfold State.emit; split <;> rfl
@[simp] theorem State.emit_len (bs : List Byte) : (s.emit bs).len = s.len := by unfold State.emit; split <;> rfl
@[simp] theorem State.emit_txfail (bs : List Byte) : (s.emit bs).txfail = s.txfail := by unfold State.emit; split <;> rfl
@[simp] theorem State.emit_lineOut (bs : List Byte) : (s.emit bs).lineOut = s.lineOut := by unfold State.emit; split <;> rfl
@[simp] theorem State.emit_stimuli (bs : List Byte) : (s.emit bs).stimuli = s.stimuli := by unfold State.emit; split <;> rfl
@[simp] theorem State.emit_tick (bs : List Byte) : (s.emit bs).tick = s.tick := by unfold State.emit; split <;> rfl
@[simp] theorem State.emit_events (bs : List Byte) : (s.emit bs).events = s.events ++ if bs = [] then [] else [.emit bs] := by
  unfold State.emit; split
  · simp
  · rfl

@[simp] theorem State.applyBus_params (r : ParseResult) : (s.applyBus r).params = s.params := by cases r <;> rfl
@[simp] theorem State.applyBus_lb (r : ParseResult) : (s.applyBus r).lb = s.lb := by cases r <;> rfl
@[simp] theorem State.applyBus_len (r : ParseResult) : (s.applyBus r).len = s.len := by cases r <;> rfl
@[simp] theorem State.applyBus_txfail (r : ParseResult) : (s.applyBus r).txfail = s.txfail := by cases r <;> rfl
@[simp] theorem State.applyBus_lineOut (r : ParseResult) : (s.applyBus r).lineOut = s.lineOut := by cases r <;> rfl
@[simp] theorem State.applyBus_stimuli (r : ParseResult) : (s.applyBus r).stimuli = s.stimuli := by cases r <;> rfl
@[simp] theorem State.applyBus_tick (r : ParseResult) : (s.applyBus r).tick = s.tick := by cases r <;> rfl
@[simp] theorem State.applyBus_events (r : ParseResult) : (s.applyBus r).events = s.events := by cases r <;> rfl

@[simp] theorem State.countSend_params (ok : Bool) : (s.countSend ok).params = s.params := by unfold State.countSend; split <;> rfl
@[simp] theorem State.countSend_bus (ok : Bool) : (s.countSend ok).bus = s.bus := by unfold State.countSend; split <;> rfl
@[simp] theorem State.countSend_lb (ok : Bool) : (s.countSend ok).lb = s.lb := by unfold State.countSend; split <;> rfl
@[simp] theorem State.countSend_len (ok : Bool) : (s.countSend ok).len = s.len := by unfold State.countSend; split <;> rfl
@[simp] theorem State.countSend_lineOut (ok : Bool) : (s.countSend ok).lineOut = s.lineOut := by unfold State.countSend; split <;> rfl
@[simp] theorem State.countSend_stimuli (ok : Bool) : (s.countSend ok).stimuli = s.stimuli := by unfold State.countSend; split <;> rfl
@[simp] theorem State.countSend_tick (ok : Bool) : (s.countSend ok).tick = s.tick := by unfold State.countSend; split <;> rfl
@[simp] theorem State.countSend_events (ok : Bool) : (s.countSend ok).events = s.events := by unfold State.countSend; split <;> rfl
@[simp] theorem State.countSend_txfail (ok : Bool) : (s.countSend ok).txfail = if ok = true then s.txfail else (s.txfail + 1) % 2 ^ s.params.txFailW := by cases ok <;> rfl

@[simp] theorem State.resetEvent_params : s.resetEvent.params = s.params := rfl
@[simp] theorem State.resetEvent_stimuli : s.resetEvent.stimuli = s.stimuli := rfl
@[simp] theorem State.resetEvent_tick : s.resetEvent.tick = s.tick := rfl
@[simp] theorem State.resetEvent_events : s.resetEvent.events = s.events := rfl
@[simp] theorem State.resetEvent_bus : s.resetEvent.bus = .opened := rfl
@[simp] theorem State.resetEvent_lb : s.resetEvent.lb = [] := rfl
@[simp] theorem State.resetEvent_len : s.resetEvent.len = 0 := rfl
@[simp] theorem State.resetEvent_txfail : s.resetEvent.txfail = 0 := rfl
@[simp] theorem State.resetEvent_lineOut : s.resetEvent.lineOut = none := rfl

@[simp] theorem State.applyBus_openBus : (s.applyBus .openBus).bus = .opened := rfl
@[simp] theorem State.applyBus_closeBus : (s.applyBus .closeBus).bus = .closed := rfl
@[simp] theorem State.applyBus_transmit (f : TxFrame) : s.applyBus (.transmit f) = s := rfl
@[simp] theorem State.applyBus_unrecognized : s.applyBus .unrecognized = s := rfl
@[simp] theorem State.emit_nil : s.emit [] = s := rfl

end Sys2Proof.Machine
end

