-- ==== Sys2Proof/Laws/Ops.lean ====
section
/-! SUPPORT. One law per shared operation, and what a step can do. -/

namespace Sys2Proof.Machine

/-! Kinds of events. -/

@[simp] theorem Event.isPoll_consume (b : Byte) : (Event.consume b).isPoll = false := rfl
@[simp] theorem Event.isPoll_send (f : TxFrame) (ok : Bool) : (Event.send f ok).isPoll = false := rfl
@[simp] theorem Event.isPoll_emit (bytes : List Byte) : (Event.emit bytes).isPoll = false := rfl
@[simp] theorem Event.isPoll_poll (a : Option RxFrame) : (Event.poll a).isPoll = true := rfl
@[simp] theorem Event.isSend_consume (b : Byte) : (Event.consume b).isSend = false := rfl
@[simp] theorem Event.isSend_send (f : TxFrame) (ok : Bool) : (Event.send f ok).isSend = true := rfl
@[simp] theorem Event.isSend_emit (bytes : List Byte) : (Event.emit bytes).isSend = false := rfl
@[simp] theorem Event.isSend_poll (a : Option RxFrame) : (Event.poll a).isSend = false := rfl

/-! Outcomes. -/

@[simp] theorem andThen_next (s : State) (g : State → Result) : andThen (.next s) g = g s := rfl
@[simp] theorem andThen_fault (f : Fault) (g : State → Result) : andThen (.fault f) g = .fault f := rfl
@[simp] theorem andThen_refused (e : Refusal) (g : State → Result) : andThen (.refused e) g = .refused e := rfl

/-- Going on answers a next state exactly when both parts do. -/
theorem andThen_eq_next {r : Result} {g : State → Result} {t : State} :
    andThen r g = .next t ↔ ∃ u, r = .next u ∧ g u = .next t := by
  cases r <;> simp

theorem andThen_assoc (r : Result) (g h : State → Result) :
    andThen (andThen r g) h = andThen r fun s => andThen (g s) h := by
  cases r <;> rfl

/-! The line. -/

@[simp] theorem State.line_length (s : State) : s.line.length = s.len := by simp [State.line]

theorem State.line_eq_nil {s : State} (h : s.len = 0) : s.line = [] := by simp [State.line, h]

theorem State.line_getD (s : State) {i : Nat} (h : i < s.len) (d : Byte) : s.line.getD i d = s.lb.read i := by
  simp [State.line, List.getD, h]

/-- The line depends on LEN and the cells below it only. -/
theorem State.line_congr {s t : State} (hl : s.len = t.len) (hc : ∀ i < s.len, s.lb.read i = t.lb.read i) :
    s.line = t.line := by
  simp only [State.line, ← hl]
  exact List.map_congr_left fun i hi => hc i (List.mem_range.mp hi)

/-- The append adds its byte to the line while a cell is left (R89, R90). -/
theorem State.append_line (s : State) (c : Byte) :
    (s.append c).line = if s.len < s.cap then s.line ++ [c] else s.line := by
  by_cases h : s.len < s.cap
  · simp only [State.line, State.append_len, State.append_lb, if_pos h, List.range_succ, List.map_append, List.map_cons,
      List.map_nil, Memory.read_write_same]
    congr 1
    exact List.map_congr_left fun i hi => Memory.read_write_of_ne _ _ (Nat.ne_of_lt (List.mem_range.mp hi))
  · simp only [State.line, State.append_len, State.append_lb, if_neg h]

/-- A terminator leaves an empty line (R86, R87). -/
@[simp] theorem State.terminate_line (s : State) : s.terminate.line = [] := State.line_eq_nil (by simp)

/-! Instructions. -/

/-- Every instruction has its effect on every state: none stops. -/
theorem exec_completes (i : Instr) (s : State) : ∃ t, exec i s = .next t := by
  cases i <;> exact ⟨_, rfl⟩

/-- A line instruction is the dispatch of its Parse Result (R136). -/
theorem exec_line {i : Instr} {r : ParseResult} (h : i.parseResult = some r) (s : State) :
    exec i s = .next (s.dispatch r) := by
  cases i <;> cases h <;> rfl

/-- Feed, by the class of its byte (R85). -/
theorem exec_decodeByte (b : Byte) (s : State) :
    exec (decodeByte b) s
      = .next (if isTerminator b then s.terminate else if b = nul then s.discard else s.append (upper b)) := by
  by_cases h1 : b = cr
  · subst h1; rfl
  · by_cases h2 : b = lf
    · subst h2; rfl
    · have ht : isTerminator b = false := by simpa [isTerminator] using And.intro h1 h2
      by_cases h3 : b = nul
      · subst h3; rfl
      · simp only [decodeByte, if_neg h1, if_neg h2, if_neg h3, ht, Bool.false_eq_true, if_false, upper]
        split <;> rfl

theorem sendAnswer_of_stimulus {s : State} {d : Draws} (h : s.stimulus = .iteration d) : s.sendAnswer = d.sendOk := by
  simp [State.sendAnswer, h]

/-- The move depends on the parameters, the script and the counter only. -/
theorem stimulus_congr {s t : State} (hp : s.params = t.params) (hs : s.stimuli = t.stimuli) (ht : s.tick = t.tick) :
    s.stimulus = t.stimulus := by
  simp [State.stimulus, hp, hs, ht]

/-- A free move keeps the collaborators' duties (R35, R170). -/
theorem freeStimulus_ok (p : Params) (n : Nat) : (freeStimulus p n).ok p = true := by
  unfold freeStimulus
  split
  · rfl
  · simp only [Stimulus.ok, freeDraws]
    split
    · have h1 : Config.freeId n % 2 ^ p.rxIdW < 2 ^ p.rxIdW := Nat.mod_lt _ (by positivity)
      have h2 : (Config.freeDlc n).val ≤ 8 := by omega
      simp [answerOk, RxFrame.ok, freeFrame, h1, h2]
    · rfl

/-! The phases. -/

/-- The dispatch of a completed line by its Parse Result; nothing is left of the line (R28, R136). -/
theorem runCompletedLine_some {s : State} {chars : List Byte} {r : ParseResult} (h : s.lineOut = some chars)
    (hp : parse chars = some r) : runCompletedLine s = .next (({ s with lineOut := none } : State).dispatch r) := by
  unfold parse at hp
  simp only [runCompletedLine, h, runInput, decode]
  cases hd : decodeLine chars with
  | error e => simp [hd] at hp
  | ok i => simp only [hd] at hp; exact exec_line hp _

theorem runCompletedLine_none {s : State} (h : s.lineOut = none) : runCompletedLine s = .next s := by
  simp [runCompletedLine, h]

/-- Phase 2 while BUS is CLOSED: nothing (R141). -/
theorem phase2_closed {s : State} (h : s.bus = .closed) (a : Option RxFrame) : phase2 a s = .next s := by
  simp [phase2, h]

/-- Phase 2 while BUS is OPEN: the poll, and the notification of a standard frame (R139). -/
theorem phase2_opened {s : State} (h : s.bus = .opened) {a : Option RxFrame} (ha : answerOk s.params a = true) :
    phase2 a s = .next ((s.polled a).emit (a.elim [] encodeFrame)) := by
  cases a with
  | none => simp only [phase2, h]; rfl
  | some f =>
    have hf : f.ok s.params = true := ha
    simp only [phase2, h, runInput, decode, decodePoll, State.polled_params, hf, if_true, Option.elim_some]
    cases hi : f.ide
    · rfl
    · simp [encodeFrame, hi]; rfl

end Sys2Proof.Machine
end

