-- ==== Sys2Proof/Laws/PerInstr.lean ====
section
/-! SUPPORT. One fact about every instruction as an input: the row of the opcode table it stands for selects its encoding
(30_encoding.md R78). -/

namespace Sys2Proof.Laws.RowMatch

/-- Some row of the table with the instruction's mnemonic and format selects the encoding of the instruction, whenever it
is well formed. -/
def Statement (i : Instr) : Prop :=
  ∀ p : Params, i.wf p = true →
    ∃ r ∈ opcodeTable, r.mnemonic = i.mnemonic ∧ r.format = i.format ∧ r.selects (encode i) = true

theorem feedCr : Statement .feedCr := fun _ _ => ⟨⟨"FEED_CR", .byte, 1, .masked 0x0D 0xFF⟩, by decide⟩

theorem feedLf : Statement .feedLf := fun _ _ => ⟨⟨"FEED_LF", .byte, 2, .masked 0x0A 0xFF⟩, by decide⟩

theorem feedNul : Statement .feedNul := fun _ _ => ⟨⟨"FEED_NUL", .byte, 3, .masked 0x00 0xFF⟩, by decide⟩

theorem feedLower (b : Byte) : Statement (.feedLower b) := fun _ h =>
  ⟨⟨"FEED_LOWER", .byte, 4, .range 0x61 0x7A⟩, by decide, rfl, rfl, h⟩

theorem feedOther (b : Byte) : Statement (.feedOther b) := fun _ _ =>
  ⟨⟨"FEED_OTHER", .byte, 5, .anyOther⟩, by decide, rfl, rfl, rfl⟩

theorem openBus (ignored : List Byte) : Statement (.openBus ignored) := fun _ _ =>
  ⟨⟨"OPEN", .line, 1, .masked 0x4F 0xFF⟩, by decide, rfl, rfl, rfl⟩

theorem closeBus (ignored : List Byte) : Statement (.closeBus ignored) := fun _ _ =>
  ⟨⟨"CLOSE", .line, 2, .masked 0x43 0xFF⟩, by decide, rfl, rfl, rfl⟩

theorem transmit (arg : TxArg) : Statement (.transmit arg) := fun _ _ =>
  ⟨⟨"TRANSMIT", .line, 3, .masked 0x54 0xFF⟩, by decide, rfl, rfl, rfl⟩

theorem transmitLc (arg : TxArg) : Statement (.transmitLc arg) := fun _ _ =>
  ⟨⟨"TRANSMIT_LC", .line, 4, .masked 0x74 0xFF⟩, by decide, rfl, rfl, rfl⟩

theorem unrecognized (op : Byte) (rest : List Byte) : Statement (.unrecognized op rest) := fun _ _ =>
  ⟨⟨"UNRECOGNIZED", .line, 5, .anyOther⟩, by decide, rfl, rfl, rfl⟩

theorem pollEmpty : Statement .pollEmpty := fun _ _ => ⟨⟨"POLL_EMPTY", .rxframe, 1, .answerNone⟩, by decide⟩

theorem rxStd (f : RxFrame) : Statement (.rxStd f) := fun p h => by
  have hf : f.ide = false := by simp [Instr.wf] at h; exact h.2
  exact ⟨⟨"RX_STD", .rxframe, 2, .masked 0x0 0x1⟩, by decide, rfl, rfl, by
    simp [Row.selects, encode, Input.format, Input.key, hf]⟩

theorem rxExt (f : RxFrame) : Statement (.rxExt f) := fun p h => by
  have hf : f.ide = true := by simp [Instr.wf] at h; exact h.2
  exact ⟨⟨"RX_EXT", .rxframe, 3, .masked 0x1 0x1⟩, by decide, rfl, rfl, by
    simp [Row.selects, encode, Input.format, Input.key, hf]⟩

end Sys2Proof.Laws.RowMatch
end

