-- ==== Sys2Proof/Tests/Slice0.lean ====
section
/-! SUPPORT. The model's own tests. Expected results come from spec/95_test_vectors.md (W, V-L, V-P, V-E, V-S, V-R and the
programs) or from the encodings of 30_encoding.md written out. Then a named witness for the hypotheses of each
statement. -/

namespace Sys2Proof.Tests

open Sys2Proof.Machine

/-! Helpers. -/

/-- A state after reset but for BUS, the line buffer's line and TXFAIL. -/
def at_ (bus : BusState) (line : List Byte) (txfail : Nat) : State :=
  { State.reset with bus := bus, lb := storeFrom [] 0 line, len := line.length, txfail := txfail }

/-- The state with one coming iteration. -/
def drawn (s : State) (inb : Option Byte) (sendOk : Bool) (answer : Option RxFrame) : State :=
  s.withDraws { inb := inb, sendOk := sendOk, answer := answer }

/-- What a next state shows: BUS, the line, TXFAIL and the events. -/
def shown (r : Result) : Option (BusState × List Byte × Nat × List Event) :=
  match r with
  | .next t => some (t.bus, t.line, t.txfail, t.events)
  | .fault _ => none
  | .refused _ => none

/-- What Feed returned, and LEN. -/
def fed (r : Result) : Option (Option (List Byte) × Nat) :=
  match r with
  | .next t => some (t.lineOut, t.len)
  | .fault _ => none
  | .refused _ => none

/-- The name a step stops under. -/
def stopped (r : Result) : Option Refusal :=
  match r with
  | .next _ => none
  | .fault _ => none
  | .refused e => some e

/-- "T0032AABB", V-P5. -/
def lineT : List Byte := [0x54, 0x30, 0x30, 0x33, 0x32, 0x41, 0x41, 0x42, 0x42]

/-- The line of n 'X' after an 'O'. -/
def lineOX (n : Nat) : List Byte := 0x4F :: List.replicate n 0x58

/-- V-E3. -/
def frame123 : RxFrame := { ide := false, id := 0x123, dlc := 3, data := [0x01, 0x02, 0x03] }

/-- V-E6. -/
def frameExt : RxFrame := { ide := true, id := 0x1ABCDE, dlc := 1, data := [0x55] }

/-- V-E4: the longest standard frame. -/
def frameMax : RxFrame := { ide := false, id := 0x7FF, dlc := 8, data := List.replicate 8 0xFF }

/-- A frame of data length 9, outside the type of R35. -/
def frameBad : RxFrame := { ide := false, id := 1, dlc := 9, data := List.replicate 9 0 }

/-! WellFormed refuses an ill-formed term for each check. -/

theorem test_wf_lower_range : (Instr.feedLower 0x60).wf Params.default = false := by decide
theorem test_wf_other_is_not_cr : (Instr.feedOther 0x0D).wf Params.default = false := by decide
theorem test_wf_other_is_not_lower : (Instr.feedOther 0x61).wf Params.default = false := by decide
theorem test_wf_open_line_fits : (Instr.openBus (List.replicate 31 0x58)).wf Params.default = false := by decide
theorem test_wf_open_line_bytes : (Instr.openBus [0x00]).wf Params.default = false := by decide
theorem test_wf_close_line_bytes : (Instr.closeBus [0x0A]).wf Params.default = false := by decide
theorem test_wf_frame_payload_count :
    (Instr.transmit (.frame { id := 0, dlc := 2, data := [0xAA] } [])).wf Params.default = false := by decide
theorem test_wf_frame_declared_length :
    (Instr.transmit (.frame { id := 0, dlc := 9, data := List.replicate 8 0 } [0x5A])).wf Params.default = false := by decide
theorem test_wf_frame_line_fits :
    (Instr.transmit (.frame { id := 0, dlc := 8, data := List.replicate 8 0 } (List.replicate 11 0x5A))).wf Params.default
      = false := by decide
theorem test_wf_frame_tail_bytes :
    (Instr.transmitLc (.frame { id := 0, dlc := 0, data := [] } [0x7A])).wf Params.default = false := by decide
theorem test_wf_malformed_is_malformed :
    (Instr.transmit (.malformed [0x31, 0x32, 0x33, 0x30])).wf Params.default = false := by decide
theorem test_wf_unrecognized_opcode : (Instr.unrecognized 0x4F []).wf Params.default = false := by decide
theorem test_wf_standard_frame : (Instr.rxStd frameExt).wf Params.default = false := by decide
theorem test_wf_extended_frame : (Instr.rxExt frame123).wf Params.default = false := by decide
theorem test_wf_frame_dlc : (Instr.rxStd frameBad).wf Params.default = false := by decide
theorem test_wf_frame_id_width :
    (Instr.rxExt { ide := true, id := 2 ^ 29, dlc := 0, data := [] }).wf Params.default = false := by decide
theorem test_wf_frame_data :
    (Instr.rxStd { ide := false, id := 0, dlc := 2, data := [0] }).wf Params.default = false := by decide

/-! Decoding: words written out from R64, R66, R68 and R73. -/

theorem test_decode_byte_classes :
    decodeByte 0x0D = .feedCr ∧ decodeByte 0x0A = .feedLf ∧ decodeByte 0x00 = .feedNul ∧
    decodeByte 0x61 = .feedLower 0x61 ∧ decodeByte 0x7A = .feedLower 0x7A ∧
    decodeByte 0x60 = .feedOther 0x60 ∧ decodeByte 0x7B = .feedOther 0x7B ∧ decodeByte 0xE9 = .feedOther 0xE9 := by decide
/-- V-P5: "T0032AABB". -/
theorem test_decode_transmit :
    decodeLine lineT = .ok (.transmit (.frame { id := 0x003, dlc := 2, data := [0xAA, 0xBB] } [])) := by rfl
/-- V-P20: "t1233010203". -/
theorem test_decode_transmit_lc :
    decodeLine [0x74, 0x31, 0x32, 0x33, 0x33, 0x30, 0x31, 0x30, 0x32, 0x30, 0x33]
      = .ok (.transmitLc (.frame { id := 0x123, dlc := 3, data := [0x01, 0x02, 0x03] } [])) := by rfl
/-- V-P2 "OXYZ", V-P4 "C123", V-P19b "S6". -/
theorem test_decode_first_character :
    decodeLine [0x4F, 0x58, 0x59, 0x5A] = .ok (.openBus [0x58, 0x59, 0x5A]) ∧
    decodeLine [0x43, 0x31, 0x32, 0x33] = .ok (.closeBus [0x31, 0x32, 0x33]) ∧
    decodeLine [0x53, 0x36] = .ok (.unrecognized 0x53 [0x36]) := ⟨rfl, rfl, rfl⟩
/-- V-P7 "TFFF0": the identifier is not clamped. -/
theorem test_parse_id_not_clamped :
    parse [0x54, 0x46, 0x46, 0x46, 0x30] = some (.transmit { id := 0xFFF, dlc := 0, data := [] }) := by rfl
/-- V-P10 "T1234567820AABB": an extended-id command is read with a 3-digit id. -/
theorem test_parse_wider_slcan :
    parse [0x54, 0x31, 0x32, 0x33, 0x34, 0x35, 0x36, 0x37, 0x38, 0x32, 0x30, 0x41, 0x41, 0x42, 0x42]
      = some (.transmit { id := 0x123, dlc := 4, data := [0x56, 0x78, 0x20, 0xAA] }) := by rfl
/-- V-P11c "T123", V-P12 "T0032AA", V-P13 "T12G0", V-P14 "T0001G0", V-P21 "T123a". -/
theorem test_parse_malformed :
    parse [0x54, 0x31, 0x32, 0x33] = some .unrecognized ∧
    parse [0x54, 0x30, 0x30, 0x33, 0x32, 0x41, 0x41] = some .unrecognized ∧
    parse [0x54, 0x31, 0x32, 0x47, 0x30] = some .unrecognized ∧
    parse [0x54, 0x30, 0x30, 0x30, 0x31, 0x47, 0x30] = some .unrecognized ∧
    parse [0x54, 0x31, 0x32, 0x33, 0x61] = some .unrecognized := by decide
/-- V-P15 and V-P16: DLC 9 needs 23 characters and carries 8 bytes. -/
theorem test_parse_dlc_nine :
    parse ([0x54, 0x31, 0x32, 0x33, 0x39] ++ [0x30, 0x31, 0x30, 0x32, 0x30, 0x33, 0x30, 0x34] ++
        [0x30, 0x35, 0x30, 0x36, 0x30, 0x37, 0x30, 0x38]) = some .unrecognized ∧
    parse ([0x54, 0x31, 0x32, 0x33, 0x39] ++ [0x30, 0x31, 0x30, 0x32, 0x30, 0x33, 0x30, 0x34] ++
        [0x30, 0x35, 0x30, 0x36, 0x30, 0x37, 0x30, 0x38] ++ [0x5A, 0x5A])
      = some (.transmit { id := 0x123, dlc := 9, data := [1, 2, 3, 4, 5, 6, 7, 8] }) := by decide
/-- V-P9: the tail of a full data line is not read. -/
theorem test_parse_tail_not_read :
    parse ([0x54, 0x37, 0x46, 0x46, 0x38] ++ List.replicate 16 0x31 ++ [0x58, 0x59, 0x5A])
      = some (.transmit { id := 0x7FF, dlc := 8, data := List.replicate 8 0x11 }) := by decide

/-! The words of the opcode table, decoded and run as the first instruction after reset. -/

theorem test_table_words :
    decodeTableWord 8 0x0D = some .feedCr ∧ decodeTableWord 8 0x0A = some .feedLf ∧
    decodeTableWord 8 0x00 = some .feedNul ∧ decodeTableWord 8 0x61 = some (.feedLower 0x61) ∧
    decodeTableWord 8 0x30 = some (.feedOther 0x30) ∧ decodeTableWord 8 0x4F = some (.openBus []) ∧
    decodeTableWord 8 0x43 = some (.closeBus []) ∧ decodeTableWord 8 0x54 = some (.transmit (.malformed [])) ∧
    decodeTableWord 8 0x74 = some (.transmitLc (.malformed [])) ∧
    decodeTableWord 8 0x01 = some (.rxExt { ide := true, id := 0, dlc := 0, data := [] }) ∧
    decodeTableWord 8 0x02 = some (.rxStd { ide := false, id := 0, dlc := 0, data := [] }) ∧
    decodeTableWord 16 0x365A = some (.unrecognized 0x5A [0x36]) := by decide

theorem test_placed_close_runs :
    shown (step (State.reset.withFetchWord 8 0x43)) = some (.closed, [], 0, [.consume 0x0D, .emit [0x0D]]) := by decide
theorem test_placed_transmit_lc_runs :
    shown (step (State.reset.withFetchWord 8 0x74))
      = some (.opened, [], 0, [.consume 0x0D, .emit [0x07], .poll none]) := by decide
theorem test_placed_frame_runs :
    shown (step (State.reset.withFetchWord 8 0x02))
      = some (.opened, [], 0,
          [.poll (some { ide := false, id := 0, dlc := 0, data := [] }), .emit [0x74, 0x30, 0x30, 0x30, 0x30, 0x0D]]) := by
  decide

/-! The Line Assembler. -/

/-- V-L3 and V-L1. -/
theorem test_cr_completes :
    fed (exec .feedCr (at_ .opened [0x4F] 0)) = some (some [0x4F], 0) ∧
    fed (exec .feedCr (at_ .opened [] 0)) = some (none, 0) := by decide
/-- V-L13. -/
theorem test_lf_completes : fed (exec .feedLf (at_ .opened [0x4F] 0)) = some (some [0x4F], 0) := by decide
/-- V-L5, its NUL. -/
theorem test_nul_discarded :
    shown (exec .feedNul (at_ .opened [0x43] 0)) = some (.opened, [0x43], 0, []) := by decide
/-- V-L7. -/
theorem test_lower_stored :
    shown (exec (.feedLower 0x74) (at_ .opened [] 0)) = some (.opened, [0x54], 0, []) := by decide
/-- V-L11. -/
theorem test_lower_dropped_at_cap :
    fed (exec (.feedLower 0x7A) (at_ .opened (lineOX 30) 0)) = some (none, 31) := by decide
/-- V-L8. -/
theorem test_other_stored :
    shown (exec (.feedOther 0xE9) (at_ .opened [] 0)) = some (.opened, [0xE9], 0, []) := by decide
/-- V-L10, and the last cell. -/
theorem test_other_at_cap :
    fed (exec (.feedOther 0x58) (at_ .opened (lineOX 30) 0)) = some (none, 31) ∧
    fed (exec (.feedOther 0x58) (at_ .opened (lineOX 29) 0)) = some (none, 31) := by decide

/-! Dispatch and the step. -/

/-- V-S1. -/
theorem test_step_open :
    shown (step (drawn (at_ .opened [0x4F] 0) (some 0x0D) true none))
      = some (.opened, [], 0, [.consume 0x0D, .emit [0x0D], .poll none]) := by decide
/-- V-S2. -/
theorem test_step_close :
    shown (step (drawn (at_ .opened [0x43] 0) (some 0x0D) true (some frame123)))
      = some (.closed, [], 0, [.consume 0x0D, .emit [0x0D]]) := by decide
/-- V-S3. -/
theorem test_step_open_polls_in_the_same_step :
    shown (step (drawn (at_ .closed [0x4F] 0) (some 0x0D) true
        (some { ide := false, id := 0x456, dlc := 1, data := [0x55] })))
      = some (.opened, [], 0,
          [.consume 0x0D, .emit [0x0D], .poll (some { ide := false, id := 0x456, dlc := 1, data := [0x55] }),
            .emit [0x74, 0x34, 0x35, 0x36, 0x31, 0x35, 0x35, 0x0D]]) := by decide
/-- V-S4. -/
theorem test_step_failed_send :
    shown (step (drawn (at_ .closed [0x54, 0x31, 0x32, 0x33, 0x30] 0) (some 0x0D) false none))
      = some (.closed, [], 1,
          [.consume 0x0D, .send { id := 0x123, dlc := 0, data := [] } false, .emit [0x0D]]) := by decide
/-- V-S5. -/
theorem test_step_txfail_wraps :
    shown (step (drawn (at_ .opened [0x54, 0x31, 0x32, 0x33, 0x30] 0xFFFFFFFF) (some 0x0D) false none))
      = some (.opened, [], 0,
          [.consume 0x0D, .send { id := 0x123, dlc := 0, data := [] } false, .emit [0x0D], .poll none]) := by decide
/-- W2, its last step. -/
theorem test_step_transmit :
    shown (step (drawn (at_ .opened lineT 0) (some 0x0A) true none))
      = some (.opened, [], 0,
          [.consume 0x0A, .send { id := 0x003, dlc := 2, data := [0xAA, 0xBB] } true, .emit [0x0D], .poll none]) := by decide
/-- R104: opcode 't' applied directly. -/
theorem test_transmit_lc :
    shown (exec (.transmitLc (.frame { id := 0x123, dlc := 0, data := [] } []))
        (drawn (at_ .closed [] 6) none false none))
      = some (.closed, [], 7, [.send { id := 0x123, dlc := 0, data := [] } false, .emit [0x0D]]) := by decide
/-- V-S8. -/
theorem test_step_unrecognized :
    shown (step (drawn (at_ .closed [0x5A] 0) (some 0x0D) true none))
      = some (.closed, [], 0, [.consume 0x0D, .emit [0x07]]) := by decide
/-- V-S10. -/
theorem test_step_short_transmit :
    shown (step (drawn (at_ .opened [0x54, 0x30, 0x30, 0x33, 0x32, 0x41, 0x41] 0) (some 0x0D) true none))
      = some (.opened, [], 0, [.consume 0x0D, .emit [0x07], .poll none]) := by decide
/-- V-S9. -/
theorem test_step_notification_inside_a_command :
    shown (step (drawn (at_ .opened [0x54, 0x31] 0) (some 0x32) true
        (some { ide := false, id := 0x001, dlc := 0, data := [] })))
      = some (.opened, [0x54, 0x31, 0x32], 0,
          [.consume 0x32, .poll (some { ide := false, id := 0x001, dlc := 0, data := [] }),
            .emit [0x74, 0x30, 0x30, 0x31, 0x30, 0x0D]]) := by decide
/-- V-S7. -/
theorem test_step_idle_closed : shown (step (drawn (at_ .closed [] 0) none true none)) = some (.closed, [], 0, []) := by decide
/-- V-E3. -/
theorem test_rx_std :
    shown (exec (.rxStd frame123) State.reset)
      = some (.opened, [], 0,
          [.emit [0x74, 0x31, 0x32, 0x33, 0x33, 0x30, 0x31, 0x30, 0x32, 0x30, 0x33, 0x0D]]) := by decide
/-- V-E5 and V-E7. -/
theorem test_encode :
    encodeFrame { ide := false, id := 0x0AB, dlc := 2, data := [0xDE, 0xAD] }
      = [0x74, 0x30, 0x41, 0x42, 0x32, 0x44, 0x45, 0x41, 0x44, 0x0D] ∧
    encodeFrame { ide := false, id := 0x812, dlc := 0, data := [] } = [0x74, 0x30, 0x31, 0x32, 0x30, 0x0D] := by decide
/-- V-S6. -/
theorem test_rx_ext :
    shown (step (drawn (at_ .opened [] 0) none true (some frameExt)))
      = some (.opened, [], 0, [.poll (some frameExt)]) := by decide
/-- V-E9. -/
theorem test_poll_empty : shown (exec .pollEmpty State.reset) = some (.opened, [], 0, []) := by decide
/-- V-R1. -/
theorem test_reset_event :
    shown (step { at_ .closed [0x54, 0x31, 0x32] 7 with stimuli := [.reset] }) = some (.opened, [], 0, []) := by decide
/-- V-R2. -/
theorem test_frames_flow_after_reset :
    shown (step (drawn State.reset none true (some { ide := false, id := 0x100, dlc := 0, data := [] })))
      = some (.opened, [], 0,
          [.poll (some { ide := false, id := 0x100, dlc := 0, data := [] }),
            .emit [0x74, 0x31, 0x30, 0x30, 0x30, 0x0D]]) := by decide
/-- U9. -/
theorem test_answer_outside_the_type :
    stopped (step (drawn (at_ .opened [] 0) none true (some frameBad))) = some .answerOutsideType := by decide
/-- V-R and R22: the status outputs after reset. -/
theorem test_status_after_reset : State.reset.busOpen = 1 ∧ State.reset.txfailCount = 0 := ⟨rfl, rfl⟩

/-! Witnesses: for each statement with hypotheses, inputs that meet all of them together. -/

/-- A legal state with the line "O" in the buffer. -/
theorem inv_lineO : (at_ .closed [0x4F] 3).Inv :=
  { legal := by decide, lenLe := by decide, lbWf := by decide, lbCells := by decide, lineBytes := by decide,
    txfailLt := by decide, noLine := rfl }

/-- A legal state with a full line buffer. -/
theorem inv_full : (at_ .opened (lineOX 30) 0xFFFFFFFF).Inv :=
  { legal := by decide, lenLe := by decide, lbWf := by decide, lbCells := by decide, lineBytes := by decide,
    txfailLt := by decide, noLine := rfl }

theorem witness_DecodeOfEncodeIsIdentity :
    (Instr.transmit (.frame { id := 0xFFF, dlc := 13, data := List.replicate 8 0xFF } (List.replicate 10 0x39))).wf Params.default
        = true ∧
    (Instr.transmitLc (.malformed [0x31])).wf Params.default = true ∧ (Instr.rxStd frameMax).wf Params.default = true ∧
    (Instr.feedLower 0x61).wf Params.default = true ∧ (Instr.openBus (List.replicate 30 0xFF)).wf Params.default = true := by
  decide

theorem witness_EncodeOfDecodeIsIdentity :
    decode Params.default (.line [0x54]) = .ok (.transmit (.malformed [])) := rfl

theorem witness_OpcodeMapIsComplete :
    answerOk Params.default (some frameMax) = true ∧ answerOk Params.default (some frameBad) = false ∧
    ([0x01] : List Byte) ≠ [] := by decide

theorem witness_DecoderFollowsTheOpcodeTable : decode Params.default (.byte 0x7A) = .ok (.feedLower 0x7A) := rfl

theorem witness_DecodedInstructionsAreWellFormed :
    lineOk Params.default (lineOX 30) = true ∧ lineOk Params.default [0x54] = true ∧
    decode Params.default (.line [0x54]) = .ok (.transmit (.malformed [])) ∧
    decode Params.default (.poll (some frameExt)) = .ok (.rxExt frameExt) :=
  ⟨by decide, by decide, rfl, rfl⟩

theorem witness_TransmitLineNeedsTheFourChecks :
    txLineOk [0x31, 0x32, 0x33, 0x30] = true ∧ lenMin [0x31, 0x32, 0x33] = false ∧
    hdrHex [0x31, 0x32, 0x47, 0x30] = false ∧ lenDlc [0x31, 0x32, 0x33, 0x31, 0x30] = false ∧
    dataHex [0x31, 0x32, 0x33, 0x31, 0x30, 0x47] = false := by decide

theorem witness_TransmitOperandsAreAssembled :
    parse (0x54 :: lineT.tail) = some (.transmit { id := 0x003, dlc := 2, data := [0xAA, 0xBB] }) := rfl

theorem witness_DataLengthFourteenNeverFits :
    lineOk Params.default (chT :: ([0x31, 0x32, 0x33, 0x45] ++ List.replicate 26 0x39)) = true ∧
    14 ≤ (hexVal ((chT :: ([0x31, 0x32, 0x33, 0x45] ++ List.replicate 26 0x39)).getD 4 0)).toNat := by decide

theorem witness_ParseDoesNotReadTheTail :
    5 + 2 * (hexVal (lineT.getD 4 0)).toNat ≤ lineT.length ∧
    lineT.take (5 + 2 * min (hexVal (lineT.getD 4 0)).toNat 8)
      = (lineT ++ [0x5A]).take (5 + 2 * min (hexVal (lineT.getD 4 0)).toNat 8) := by decide

/-- Of TruncationKeepsTheParseResult: a line of another command, a transmit line of data length 13, and one whose position
4 is 'U', no hex digit. -/
theorem witness_TruncationKeepsTheParseResult :
    ∀ line ∈ ([lineOX 40, [0x54, 0x31, 0x32, 0x33, 0x44] ++ List.replicate 28 0x39,
        [0x54, 0x31, 0x32, 0x33, 0x55] ++ List.replicate 28 0x39] : List (List Byte)),
      line ≠ [] ∧
      ¬ ((line.getD 0 0 = 0x54 ∨ line.getD 0 0 = 0x74) ∧ isHex (line.getD 4 0) = true ∧
          14 ≤ (hexVal (line.getD 4 0)).toNat) := by decide

theorem witness_rx_frames :
    frameMax.ok Params.default = true ∧ frameMax.ide = false ∧ frameMax.id ≤ 0x7FF ∧
    frameExt.ok Params.default = true ∧ frameExt.ide = true ∧
    RxFrame.ok Params.default { ide := false, id := 0, dlc := 0, data := [] } = true := by decide

theorem witness_EncodeIsThePseudocode : frame123.ok Params.default = true := by decide

theorem witness_NotificationShape :
    frameMax.ok Params.default = true ∧ frameMax.ide = false ∧ 1 ≤ 4 + 2 * frameMax.dlc ∧
    frameExt.ok Params.default = true ∧ frameExt.ide = true := by decide

theorem witness_NotificationIsInjective :
    RxFrame.ok Params.default { ide := false, id := 0x812, dlc := 0, data := [] } = true ∧
    RxFrame.ok Params.default { ide := false, id := 0x012, dlc := 0, data := [] } = true := by decide

theorem witness_FrameRoundTrip : frameMax.ok Params.default = true ∧ frameMax.ide = false ∧ frameMax.id ≤ 0x7FF := by decide

theorem witness_NotificationFedBackRoundTrips :
    frameMax.ok State.reset.params = true ∧ frameMax.ide = false ∧ frameMax.id ≤ 0x7FF ∧ 21 ≤ State.reset.cap ∧
    State.reset.len = 0 := by decide

theorem witness_TerminatorCompletesTheLine :
    0 < (at_ .opened (lineOX 30) 0).len ∧ 0 < (at_ .opened [0x4F] 0).len ∧ State.reset.len = 0 := by decide

theorem witness_LowercaseIsStoredAsUppercase :
    0x61 ≤ (0x61 : Byte).toNat ∧ (0x7A : Byte).toNat ≤ 0x7A ∧
    (at_ .opened (lineOX 29) 0).len < (at_ .opened (lineOX 29) 0).params.maxLen - 1 ∧
    (at_ .opened (lineOX 30) 0).params.maxLen - 1 ≤ (at_ .opened (lineOX 30) 0).len := by decide

theorem witness_OtherBytesAreStoredUnchanged :
    ¬ (0x61 ≤ (0x60 : Byte).toNat ∧ (0x60 : Byte).toNat ≤ 0x7A) ∧ ¬ (0x61 ≤ (0x7B : Byte).toNat ∧ (0x7B : Byte).toNat ≤ 0x7A) ∧
    (0x60 : Byte) ≠ 0x0D ∧ (0x60 : Byte) ≠ 0x0A ∧ (0x60 : Byte) ≠ 0x00 ∧
    State.reset.len < State.reset.params.maxLen - 1 ∧
    (at_ .opened (lineOX 30) 0).params.maxLen - 1 ≤ (at_ .opened (lineOX 30) 0).len := by decide

theorem witness_BurstIsTruncatedAtCap :
    State.reset.params.legal ∧ State.reset.len = 0 ∧ (lineOX 40).all isCommandByte = true ∧ isTerminator 0x0D = true ∧
    ([] : List Byte).all isCommandByte = true := by decide

theorem witness_TerminatorRunsCompleteOneLine :
    isTerminator 0x0D = true ∧ ([0x0A, 0x0D] : List Byte) ≠ [] ∧ ([0x0A, 0x0D] : List Byte).all isTerminator = true := by decide

theorem witness_CompletedLinesAreLegal :
    ∃ t, (at_ .closed [0x4F] 3).Inv ∧ exec (decodeByte 0x0A) (at_ .closed [0x4F] 3) = .next t ∧ t.lineOut = some [0x4F] :=
  ⟨_, inv_lineO, rfl, by decide⟩

theorem witness_TransmitLcNeverComesFromIn :
    ∃ t, (at_ .opened (lineOX 30) 0xFFFFFFFF).Inv ∧
      exec (decodeByte 0x0D) (at_ .opened (lineOX 30) 0xFFFFFFFF) = .next t ∧ t.lineOut = some (lineOX 30) :=
  ⟨_, inv_full, rfl, by decide⟩

theorem witness_TransmitSendsAndAcks :
    (drawn State.reset none false none).sendAnswer = false ∧ (drawn (at_ .closed [] 0) none true none).sendAnswer = true := by
  decide

theorem witness_OneResponsePerLine :
    decode State.reset.params (.line [0x5A]) = .ok (.unrecognized 0x5A []) ∧
    decode State.reset.params (.line [0x4F]) = .ok (.openBus []) := ⟨rfl, rfl⟩

theorem witness_StandardFrameIsNotified : frameMax.ok Params.default = true ∧ frameMax.ide = false := by decide

theorem witness_RegistersKeptByEachInstruction :
    ∃ t, exec (.feedOther 0x31) (at_ .opened [0x54] 0) = .next t ∧ (Instr.feedOther 0x31).format = .byte ∧
      (Instr.closeBus []).format ≠ .byte := ⟨_, rfl, rfl, by decide⟩

theorem witness_StepRunsTheDecodedInstructions :
    (drawn (at_ .opened [0x4F] 0) (some 0x0D) true none).stimulus
        = .iteration { inb := some 0x0D, sendOk := true, answer := none } ∧
    decode State.reset.params (.byte 0x0D) = .ok .feedCr ∧
    ({ State.reset with lineOut := some [0x4F] } : State).lineOut = some [0x4F] ∧
    decode State.reset.params (.line [0x4F]) = .ok (.openBus []) ∧ (at_ .closed [] 0).bus = .closed ∧
    State.reset.bus = .opened ∧ decode State.reset.params (.poll none) = .ok .pollEmpty ∧ State.reset.lineOut = none :=
  ⟨rfl, rfl, rfl, rfl, rfl, rfl, rfl, rfl⟩

theorem witness_StepIsThePseudocode :
    (drawn State.reset (some 0x0D) true (some frameMax)).stimulus
        = .iteration { inb := some 0x0D, sendOk := true, answer := some frameMax } ∧
    answerOk State.reset.params (some frameMax) = true := ⟨rfl, by decide⟩

/-- Both clauses: BUS open and BUS closed after phase 1, with an answer outside the type. -/
theorem witness_AnswerOutsideTheTypeIsRefused :
    (drawn State.reset none true (some frameBad)).stimulus
        = .iteration { inb := none, sendOk := true, answer := some frameBad } ∧
    answerOk State.reset.params (some frameBad) = false ∧
    (Pseudo.phase1 Params.default { inb := none, sendOk := true, answer := some frameBad }
        (Pseudo.Regs.of State.reset)).1.bus = .opened ∧
    (Pseudo.phase1 Params.default { inb := some 0x0D, sendOk := true, answer := some frameBad }
        (Pseudo.Regs.of (at_ .opened [0x43] 0))).1.bus = .closed := ⟨rfl, by decide, by decide, by decide⟩

theorem witness_EveryStepCompletes :
    (∀ x, State.reset.stimuli.head? = some x → x.ok State.reset.params = true) ∧
    (∀ x, (drawn State.reset none true (some frameMax)).stimuli.head? = some x → x.ok State.reset.params = true) :=
  ⟨fun _ h => (nomatch h), fun _ h => by cases h; decide⟩

theorem witness_InvariantIsKept :
    ∃ t, (at_ .opened (lineOX 30) 0xFFFFFFFF).Inv ∧
      step (drawn (at_ .opened (lineOX 30) 0xFFFFFFFF) (some 0x58) true none) = .next t ∧ t.len = 31 :=
  ⟨_, inv_full, rfl, by decide⟩

theorem witness_ResetEventRestoresTheRegisters :
    ({ at_ .closed [0x54] 7 with stimuli := [.reset] } : State).stimulus = .reset := rfl

/-- Of PollFollowsBus: the hypotheses, and each parse of its last clause. -/
theorem witness_PollFollowsBus :
    ∃ t, (drawn (at_ .closed [0x4F] 0) (some 0x0D) true none).stimulus
          = .iteration { inb := some 0x0D, sendOk := true, answer := none } ∧
      step (drawn (at_ .closed [0x4F] 0) (some 0x0D) true none) = .next t ∧ isTerminator 0x0D = true ∧
      0 < (at_ .closed [0x4F] 0).len ∧ Pseudo.parse (at_ .closed [0x4F] 0).line = .openBus ∧
      Pseudo.parse (at_ .opened [0x43] 0).line = .closeBus :=
  ⟨_, rfl, rfl, by decide, by decide, by decide, by decide⟩

theorem witness_BusChangesOnlyByOpenOrClose :
    ∃ t, step (drawn (at_ .closed [0x4F] 0) (some 0x0D) true none) = .next t ∧
      t.bus ≠ (drawn (at_ .closed [0x4F] 0) (some 0x0D) true none).bus := ⟨_, rfl, by decide⟩

/-- Of TxfailCountsFailedSends: an iteration with a failed send, and one with none. -/
theorem witness_TxfailCountsFailedSends :
    (∃ t, step (drawn (at_ .closed lineT 9) none false none) = .next t ∧ t.events.filter Event.isSend = []) ∧
    ∃ t, (drawn (at_ .closed lineT 9) (some 0x0D) false none).stimulus
          = .iteration { inb := some 0x0D, sendOk := false, answer := none } ∧
      step (drawn (at_ .closed lineT 9) (some 0x0D) false none) = .next t ∧ t.txfail = 10 :=
  ⟨⟨_, rfl, by decide⟩, _, rfl, rfl, by decide⟩

theorem witness_StepAppendsAtMostTwentyThreeBytes :
    ∃ t, step (drawn (at_ .opened [0x4F] 0) (some 0x0D) true (some frameMax)) = .next t ∧ t.out.length = 23 :=
  ⟨_, rfl, by decide⟩

/-- Two states that differ in a cell above LEN. -/
theorem witness_RegistersAndDrawsDetermineTheStep :
    ∃ t, State.reset.params = ({ State.reset with lb := [(7, 0x41)] } : State).params ∧
      Pseudo.Regs.of State.reset = Pseudo.Regs.of { State.reset with lb := [(7, 0x41)] } ∧
      (drawn State.reset none true none).stimulus = .iteration { inb := none, sendOk := true, answer := none } ∧
      (drawn { State.reset with lb := [(7, 0x41)] } none true none).stimulus
        = .iteration { inb := none, sendOk := true, answer := none } ∧
      step (drawn State.reset none true none) = .next t := ⟨_, rfl, by decide, rfl, rfl, rfl⟩

theorem witness_TxfailIsNotSeenOnTheWire :
    ∃ t, step (drawn (at_ .closed lineT 9) (some 0x0D) false none) = .next t := ⟨_, rfl⟩

theorem witness_NoLineIsCarriedBetweenSteps :
    ∃ t, step (drawn (at_ .opened [0x5A] 0) (some 0x0D) true none) = .next t ∧ t.lineOut = none := ⟨_, rfl, by decide⟩

theorem witness_ParseIsThePseudocode : ([0x54] : List Byte) ≠ [] ∧ ([0x4F, 0x58] : List Byte) ≠ [] := by decide

/-- Of ErrorsRingTheBell: the premise of its first clause, at bytes beside the opcodes. -/
theorem witness_ErrorsRingTheBell :
    ∀ op ∈ ([0x4E, 0x44, 0x55, 0x73] : List Byte), op ≠ 0x4F ∧ op ≠ 0x43 ∧ op ≠ 0x54 ∧ op ≠ 0x74 := by decide

theorem witness_LenFitsItsRegister : (at_ .opened (lineOX 30) 0xFFFFFFFF).Inv := inv_full

theorem witness_StatusOutputsShowBusAndTxfail :
    (at_ .closed [0x4F] 3).bus = .closed ∧ State.reset.bus = .opened ∧ (at_ .closed [0x4F] 3).Inv :=
  ⟨rfl, rfl, inv_lineO⟩

end Sys2Proof.Tests
end

section
/-! The end of a line: what CR and LF do to an empty and to a non-empty buffer (40_line_assembler.md R86, R87). -/

namespace Sys2Proof.Machine

@[simp] theorem exec_feedCr (s : State) : exec .feedCr s = .next s.terminate := rfl

@[simp] theorem exec_feedLf (s : State) : exec .feedLf s = .next s.terminate := rfl

/-- A terminator returns the line of a non-empty buffer and empties it. -/
theorem State.terminate_of_len_pos {s : State} (h : 0 < s.len) :
    s.terminate = { s with lineOut := some s.line, len := 0 } := if_pos h

/-- A terminator writes no register when the buffer is empty, and returns no line. -/
theorem State.terminate_of_len_eq_zero {s : State} (h : s.len = 0) : s.terminate = { s with lineOut := none } :=
  if_neg h.not_gt

/-- Settles O19: both terminators execute `State.terminate`, whose two branches are the two clauses. -/
theorem terminatorCompletesTheLine : Obligations.TerminatorCompletesTheLine := by
  refine ⟨by decide, by decide, fun s => ⟨fun hpos => ?_, fun hzero => ?_⟩⟩
  · rw [exec_feedCr, exec_feedLf, State.terminate_of_len_pos hpos, State.line]
    exact ⟨rfl, rfl⟩
  · rw [exec_feedCr, exec_feedLf, State.terminate_of_len_eq_zero hzero]
    exact ⟨rfl, rfl⟩

end Sys2Proof.Machine
end

section
/-! The open and close commands: what their lines parse to (41_command_parser.md R101, R102), what `apply` writes (R135) and
what is answered (R136). -/

namespace Sys2Proof.Machine

/-- The opcode alone makes a line an OpenBus (R67, R101). -/
theorem parse_openBus_line (ignored : List Byte) : parse (0x4F :: ignored) = some .openBus := by
  have hdecode : decodeLine (0x4F :: ignored) = .ok (.openBus ignored) := rfl
  simp only [parse, hdecode, Instr.parseResult]

/-- The opcode alone makes a line a CloseBus (R67, R102). -/
theorem parse_closeBus_line (ignored : List Byte) : parse (0x43 :: ignored) = some .closeBus := by
  have hdecode : decodeLine (0x43 :: ignored) = .ok (.closeBus ignored) := rfl
  simp only [parse, hdecode, Instr.parseResult]

/-- `apply` as an assignment to BUS: the whole state but BUS is its frame (R135). -/
theorem State.applyBus_eq (s : State) (r : ParseResult) :
    s.applyBus r
      = { s with bus := if r = .openBus then .opened else if r = .closeBus then .closed else s.bus } := by
  cases r with
  | openBus => rfl
  | closeBus => rfl
  | transmit f => simp
  | unrecognized => simp

/-- The ack is one event more and writes no register (R136). -/
theorem State.ack_eq (s : State) : s.ack = { s with events := s.events ++ [.emit [0x0D]] } := rfl

theorem State.dispatch_openBus (s : State) :
    s.dispatch .openBus = { s with bus := .opened, events := s.events ++ [.emit [0x0D]] } := by
  rw [State.dispatch, State.ack_eq, State.applyBus_eq, if_pos rfl]

theorem State.dispatch_closeBus (s : State) :
    s.dispatch .closeBus = { s with bus := .closed, events := s.events ++ [.emit [0x0D]] } := by
  rw [State.dispatch, State.ack_eq, State.applyBus_eq, if_neg (by decide), if_pos rfl]

/-- Settles O27: both commands execute as the dispatch of their Parse Result, which is `apply` and then the ack. -/
theorem openAndCloseWriteBus : Obligations.OpenAndCloseWriteBus := by
  intro s ignored
  refine ⟨parse_openBus_line ignored, parse_closeBus_line ignored, s.applyBus_eq, ?_, ?_⟩
  · rw [exec_line (i := .openBus ignored) rfl, State.dispatch_openBus]
  · rw [exec_line (i := .closeBus ignored) rfl, State.dispatch_closeBus]

end Sys2Proof.Machine
end

section
/-! The notification of a received frame: its fields as Encode picks them (42_frame_codec.md R120, R72), and
what the rows of the controller poll put on OUT (R121 to R123). -/

namespace Sys2Proof

/-- The identifier digits are the fields id[10:8], id[7:4] and id[3:0] of the pseudocode (R47). -/
theorem rxIdDigits_eq_idFields (id : Nat) :
    rxIdDigits id
      = [hexChar (Pseudo.idField id 8 3), hexChar (Pseudo.idField id 4 4), hexChar (Pseudo.idField id 0 4)] := by
  simp only [rxIdDigits, Pseudo.idField, Nat.shiftRight_eq_div_pow, Nat.reducePow, Nat.div_one]

/-- A list is its elements read in the order of their indices. -/
theorem map_getD_range_length {α : Type} (l : List α) (d : α) : (List.range l.length).map (l.getD · d) = l := by
  refine List.ext_getElem (by simp) fun i _ hi => ?_
  simp [hi]

/-- A whole payload, byte by byte, is the payload by index. -/
theorem flatMap_digitsOfByte_eq_range (data : List Byte) :
    data.flatMap digitsOfByte = (List.range data.length).flatMap fun i => digitsOfByte (data.getD i 0) := by
  conv_lhs => rw [← map_getD_range_length data 0, List.flatMap_map]

theorem RxFrame.data_length_of_ok {p : Params} {f : RxFrame} (h : f.ok p = true) : f.data.length = f.dlc := by
  simp only [RxFrame.ok, Bool.and_eq_true, beq_iff_eq] at h
  exact h.2

/-- A standard frame whose payload has its data length is encoded as Encode says (R120). -/
theorem encodeFrame_eq_pseudo {f : RxFrame} (h : f.data.length = f.dlc) : encodeFrame f = Pseudo.encode f := by
  cases hide : f.ide with
  | true => simp [encodeFrame, Pseudo.encode, hide]
  | false =>
    have htake : f.data.take f.dlc = f.data := List.take_of_length_le h.le
    simp only [encodeFrame, Pseudo.encode, hide, htake, rxIdDigits_eq_idFields, flatMap_digitsOfByte_eq_range, h]
    simp [digitsOfByte]

/-- Settles O14: identifier digit by digit, and the payload read by index. -/
theorem encodeIsThePseudocode : Obligations.EncodeIsThePseudocode :=
  fun _ _ h => encodeFrame_eq_pseudo (RxFrame.data_length_of_ok h)

/-- 't', three identifier digits, the data length digit, two digits a byte, CR (R72, R124). -/
theorem Pseudo.encode_length {f : RxFrame} (h : f.ide = false) : (Pseudo.encode f).length = 6 + 2 * f.dlc := by
  have hlen : (Pseudo.encode f).length = f.dlc * 2 + 6 := by simp [Pseudo.encode, h, List.length_flatMap]
  omega

end Sys2Proof

namespace Sys2Proof.Machine

@[simp] theorem exec_rxStd (f : RxFrame) (s : State) : exec (.rxStd f) s = .next (s.emit (encodeFrame f)) := rfl

@[simp] theorem exec_rxExt (f : RxFrame) (s : State) : exec (.rxExt f) s = .next (s.emit []) := rfl

@[simp] theorem exec_pollEmpty (s : State) : exec .pollEmpty s = .next s := rfl

/-- An emission is one event more and writes no register (R31). -/
theorem State.emit_of_ne_nil {bytes : List Byte} (h : bytes ≠ []) (s : State) :
    s.emit bytes = { s with events := s.events ++ [.emit bytes] } := if_neg h

/-- Settles O31: the notification is Encode of the frame and is not empty, so its emission is recorded. -/
theorem standardFrameIsNotified : Obligations.StandardFrameIsNotified := by
  intro p s f hok hstd
  have hlen : (Pseudo.encode f).length = 6 + 2 * f.dlc := Pseudo.encode_length hstd
  have hne : Pseudo.encode f ≠ [] := List.ne_nil_of_length_pos (by omega)
  refine ⟨?_, hlen⟩
  rw [exec_rxStd, encodeIsThePseudocode p f hok, State.emit_of_ne_nil hne]

/-- Settles O32: RX_EXT emits the empty sequence, which is no emission, and POLL_EMPTY does nothing. -/
theorem extendedFrameAndEmptyPollAreSilent : Obligations.ExtendedFrameAndEmptyPollAreSilent := by
  intro s f
  refine ⟨?_, exec_pollEmpty s⟩
  rw [exec_rxExt, State.emit_nil]

end Sys2Proof.Machine
end

section
/-! The poll follows BUS (43_dispatch_scheduler.md R139 to R141): what the dispatch of a line records, what each phase of an
iteration answers, and the iteration put together. -/

namespace Sys2Proof.Pseudo

/-- A transmit line parses to Transmit or to Unrecognized (R100, R103). -/
theorem decodeTransmit_cases (line : List Byte) :
    decodeTransmit line = .unrecognized ∨ ∃ f, decodeTransmit line = .transmit f := by
  unfold decodeTransmit
  dsimp only
  split_ifs
  · exact .inl rfl
  · exact .inl rfl
  · exact .inl rfl
  · exact .inr ⟨_, rfl⟩
  · exact .inl rfl

/-- A character other than 0 at position 0 is the first of the line. -/
theorem eq_cons_of_pos_zero {line : List Byte} {b : Byte} (hb : b ≠ 0) (h : pos line 0 = b) :
    ∃ rest, line = b :: rest := by
  cases line with
  | nil => exact absurd h.symm hb
  | cons c rest =>
    obtain rfl : c = b := h
    exact ⟨rest, rfl⟩

end Sys2Proof.Pseudo

namespace Sys2Proof.Machine

/-! The parser. -/

/-- Every line that can be formed has a Parse Result (R65, R100). -/
theorem exists_parse_of_ne_nil {chars : List Byte} (h : chars ≠ []) : ∃ r, parse chars = some r := by
  obtain ⟨c, rest, rfl⟩ := List.exists_cons_of_ne_nil h
  simp only [parse, decodeLine]
  split_ifs <;> exact ⟨_, rfl⟩

/-- A line the pseudocode parses to OpenBus or CloseBus has the opcode of that command (R101, R102). -/
theorem parse_of_pseudo_parse {line : List Byte} {r : ParseResult} (hr : r = .openBus ∨ r = .closeBus)
    (h : Pseudo.parse line = r) : parse line = some r := by
  unfold Pseudo.parse at h
  split_ifs at h with hO hC hT
  · obtain ⟨rest, rfl⟩ := Pseudo.eq_cons_of_pos_zero (by decide) hO
    exact h ▸ parse_openBus_line rest
  · obtain ⟨rest, rfl⟩ := Pseudo.eq_cons_of_pos_zero (by decide) hC
    exact h ▸ parse_closeBus_line rest
  · rcases Pseudo.decodeTransmit_cases line with hbad | ⟨f, hframe⟩
    · simp [← h, hbad] at hr
    · simp [← h, hframe] at hr
  · simp [← h] at hr

/-! Dispatch. -/

/-- Of a dispatch, only `apply` writes BUS (R135, R136). -/
theorem State.dispatch_bus (s : State) (r : ParseResult) : (s.dispatch r).bus = (s.applyBus r).bus := by
  cases r <;> simp [State.dispatch, State.transmit, State.ack, State.bell]

/-- What phase 1 may record: no poll, and no emission beside the ack and the bell (R140). -/
def Event.inPhase1 : Event → Bool
  | .consume _ => true
  | .send _ _ => true
  | .emit bytes => bytes == [cr] || bytes == [bel]
  | .poll _ => false

theorem Event.isPoll_of_inPhase1 {e : Event} (h : e.inPhase1 = true) : e.isPoll = false := by
  cases e with
  | poll a => cases h
  | consume b => rfl
  | send f ok => rfl
  | emit bytes => rfl

theorem Event.emit_inPhase1_iff {bytes : List Byte} :
    (Event.emit bytes).inPhase1 = true ↔ bytes = [cr] ∨ bytes = [bel] := by
  simp [Event.inPhase1]

/-- A dispatch records at most a send and one response byte (R136, R137). -/
theorem State.dispatch_events (s : State) (r : ParseResult) :
    ∃ es, (s.dispatch r).events = s.events ++ es ∧ ∀ e ∈ es, e.inPhase1 = true := by
  cases r with
  | openBus => exact ⟨[.emit [cr]], by simp [State.dispatch, State.ack], by decide⟩
  | closeBus => exact ⟨[.emit [cr]], by simp [State.dispatch, State.ack], by decide⟩
  | transmit f =>
    exact ⟨[.send f s.sendAnswer, .emit [cr]], by simp [State.dispatch, State.transmit, State.ack],
      by simp [Event.inPhase1]⟩
  | unrecognized => exact ⟨[.emit [bel]], by simp [State.dispatch, State.bell], by decide⟩

/-! Phase 1. -/

/-- Without a completed line nothing happens, and a completed line is dispatched by its Parse Result (R139). -/
theorem runCompletedLine_eq_next {s t : State} (h : runCompletedLine s = .next t) :
    (s.lineOut = none ∧ t = s) ∨
      ∃ chars r, s.lineOut = some chars ∧ parse chars = some r ∧ t = s.discard.dispatch r := by
  cases hline : s.lineOut with
  | none =>
    rw [runCompletedLine_none hline] at h
    cases h
    exact .inl ⟨rfl, rfl⟩
  | some chars =>
    have hne : chars ≠ [] := by
      rintro rfl
      simp [runCompletedLine, hline, runInput, decode, decodeLine] at h
    obtain ⟨r, hr⟩ := exists_parse_of_ne_nil hne
    rw [runCompletedLine_some hline hr] at h
    cases h
    exact .inr ⟨chars, r, rfl, hr, rfl⟩

/-- Feed emits nothing and records nothing of its own (R85). -/
theorem exec_decodeByte_events {b : Byte} {s t : State} (h : exec (decodeByte b) s = .next t) :
    t.events = s.events := by
  rw [exec_decodeByte] at h
  cases h
  split_ifs <;> simp

/-- Phase 1 with an input byte: it is taken and fed, and a line it completes is dispatched (R139, R140). -/
theorem phase1_some (b : Byte) (s : State) :
    phase1 (some b) s = andThen (exec (decodeByte b) (s.consume b)) runCompletedLine := rfl

theorem phase1_events {inb : Option Byte} {s t : State} (h : phase1 inb s = .next t) :
    ∃ es, t.events = s.events ++ es ∧ ∀ e ∈ es, e.inPhase1 = true := by
  cases inb with
  | none =>
    cases h
    exact ⟨[], by simp⟩
  | some b =>
    obtain ⟨u, hfeed, hline⟩ := andThen_eq_next.mp (phase1_some b s ▸ h)
    have hu : u.events = s.events ++ [.consume b] := by rw [exec_decodeByte_events hfeed, State.consume_events]
    rcases runCompletedLine_eq_next hline with ⟨-, rfl⟩ | ⟨-, r, -, -, rfl⟩
    · exact ⟨[.consume b], hu, by simp [Event.inPhase1]⟩
    · obtain ⟨es, hes, hall⟩ := u.discard.dispatch_events r
      refine ⟨.consume b :: es, by simp [hes, hu], ?_⟩
      simpa [Event.inPhase1] using hall

/-- A terminator after a non-empty line: the line is dispatched in the same phase (R86, R87, R139). -/
theorem phase1_completes {b : Byte} {s : State} {r : ParseResult} (hb : isTerminator b = true) (hlen : 0 < s.len)
    (hr : parse s.line = some r) :
    phase1 (some b) s = .next ((s.consume b).terminate.discard.dispatch r) := by
  have hout : (s.consume b).terminate.lineOut = some s.line := by
    rw [State.terminate_of_len_pos (s := s.consume b) hlen]
    rfl
  rw [phase1_some, exec_decodeByte, if_pos hb, andThen_next, runCompletedLine_some hout hr, State.discard]

/-- BUS after a line of phase 1 is what `apply` makes of it (R135). -/
theorem phase1_bus_of_parse {b : Byte} {s t : State} {r : ParseResult} (hb : isTerminator b = true)
    (hlen : 0 < s.len) (hr : parse s.line = some r) (h : phase1 (some b) s = .next t) :
    t.bus = (s.applyBus r).bus := by
  rw [phase1_completes hb hlen hr] at h
  cases h
  rw [State.dispatch_bus]
  cases r <;> simp

/-! Phase 2. -/

/-- Phase 2 while BUS is OPEN, for an answer outside the RX frame type: it is refused (U9). -/
theorem phase2_opened_refused {s : State} (h : s.bus = .opened) {a : Option RxFrame}
    (ha : answerOk s.params a = false) : phase2 a s = .refused .answerOutsideType := by
  cases a with
  | none => cases ha
  | some f =>
    have hf : f.ok s.params = false := ha
    simp [phase2, h, runInput, decode, decodePoll, hf, refusalOf]

/-- Phase 2 answers a next state in two ways: BUS is CLOSED and nothing happens, or BUS is OPEN and the answer of the
one poll is notified (R141). -/
theorem phase2_eq_next {a : Option RxFrame} {s t : State} (h : phase2 a s = .next t) :
    (s.bus = .closed ∧ t = s) ∨
      (s.bus = .opened ∧ answerOk s.params a = true ∧ t = (s.polled a).emit (a.elim [] encodeFrame)) := by
  cases hbus : s.bus with
  | closed =>
    rw [phase2_closed hbus] at h
    cases h
    exact .inl ⟨rfl, rfl⟩
  | opened =>
    cases ha : answerOk s.params a with
    | false => simp [phase2_opened_refused hbus ha] at h
    | true =>
      rw [phase2_opened hbus ha] at h
      cases h
      exact .inr ⟨rfl, rfl, rfl⟩

theorem phase2_bus {a : Option RxFrame} {s t : State} (h : phase2 a s = .next t) : t.bus = s.bus := by
  rcases phase2_eq_next h with ⟨-, rfl⟩ | ⟨-, -, rfl⟩
  · rfl
  · simp

/-- Phase 2 records one poll exactly when BUS is OPEN, and nothing while it is CLOSED (R141). -/
theorem phase2_events {a : Option RxFrame} {s t : State} (h : phase2 a s = .next t) :
    ∃ es, t.events = s.events ++ es ∧ (s.bus = .closed → es = []) ∧
      es.filter Event.isPoll = if s.bus = .opened then [.poll a] else [] := by
  rcases phase2_eq_next h with ⟨hbus, rfl⟩ | ⟨hbus, -, rfl⟩
  · exact ⟨[], by simp, fun _ => rfl, by simp [hbus]⟩
  · refine ⟨.poll a :: if a.elim [] encodeFrame = [] then [] else [.emit (a.elim [] encodeFrame)], by simp,
      by simp [hbus], ?_⟩
    rw [if_pos hbus]
    split_ifs <;> rfl

/-! The iteration. -/

/-- An iteration that answers a next state is phase 1, phase 2, and the end of the move (R139). -/
theorem step_iteration_eq_next {s t : State} {d : Draws} (hd : s.stimulus = .iteration d) (h : step s = .next t) :
    ∃ u v, phase1 d.inb s.discard = .next u ∧ phase2 d.answer u = .next v ∧ t = v.advance := by
  simp only [step, move, hd, iterate] at h
  obtain ⟨v, hv, hadvance⟩ := andThen_eq_next.mp h
  obtain ⟨u, hphase1, hphase2⟩ := andThen_eq_next.mp hv
  cases hadvance
  exact ⟨u, v, hphase1, hphase2, rfl⟩

/-- Settles O42: phase 1 records no poll and emits acks and bells only, and phase 2 keeps BUS and polls by it. -/
theorem pollFollowsBus : Obligations.PollFollowsBus := by
  intro s t d hd hstep
  obtain ⟨u, v, hphase1, hphase2, rfl⟩ := step_iteration_eq_next hd hstep
  obtain ⟨es₁, hes₁, hall⟩ := phase1_events hphase1
  obtain ⟨es₂, hes₂, hclosed, hpoll⟩ := phase2_events hphase2
  have hbus : v.advance.bus = u.bus := (phase2_bus hphase2 :)
  have hnopoll : es₁.filter Event.isPoll = [] :=
    List.filter_eq_nil_iff.mpr fun e he => by simp [Event.isPoll_of_inPhase1 (hall e he)]
  refine ⟨es₁ ++ es₂, by simp [hes₁, hes₂], ?_, ?_, ?_⟩
  · rw [List.filter_append, hnopoll, List.nil_append, hpoll, hbus]
  · intro hbusClosed bytes hmem
    rw [hclosed (hbus ▸ hbusClosed), List.append_nil] at hmem
    exact Event.emit_inPhase1_iff.mp (hall _ hmem)
  · intro b hinb hb hlen
    rw [hinb] at hphase1
    have hline {r : ParseResult} (hr : parse s.line = some r) : v.advance.bus = (s.discard.applyBus r).bus :=
      hbus.trans (phase1_bus_of_parse hb hlen hr hphase1)
    exact ⟨fun h => hline (parse_of_pseudo_parse (.inl rfl) h), fun h => hline (parse_of_pseudo_parse (.inr rfl) h)⟩

end Sys2Proof.Machine
end

section
/-! The operands of a transmit line (30_encoding.md R68 to R70): the decoder as its four checks and the fields by
character position, and encoding as its inverse. -/

namespace Sys2Proof

/-! Pairs of digits by position. -/

@[simp] theorem isHex_zero : isHex 0#8 = false := by decide

/-- A position beyond the line is no hex digit. -/
theorem any_isHex_getElem? (cs : List Byte) (j : Nat) : (cs[j]?).any isHex = isHex (cs.getD j 0) := by
  cases h : cs[j]? <;> simp [h]

/-- Pair i of the characters is two hex digits. -/
def IsPair (cs : List Byte) (i : Nat) : Prop :=
  isHex (cs.getD (2 * i) 0) = true ∧ isHex (cs.getD (2 * i + 1) 0) = true

/-- The byte pair i of the characters stands for (R69). -/
def pairByte (cs : List Byte) (i : Nat) : Byte :=
  byteOfDigits (hexVal (cs.getD (2 * i) 0)) (hexVal (cs.getD (2 * i + 1) 0))

theorem isPair_cons_zero {hi lo : Byte} {cs : List Byte} :
    IsPair (hi :: lo :: cs) 0 ↔ isHex hi = true ∧ isHex lo = true := Iff.rfl

theorem isPair_cons_succ {hi lo : Byte} {cs : List Byte} {i : Nat} :
    IsPair (hi :: lo :: cs) (i + 1) ↔ IsPair cs i := Iff.rfl

/-- The first n pairs are taken by position when all of them are digits. -/
theorem takePairs_of_isPair : ∀ (n : Nat) (cs : List Byte), (∀ i < n, IsPair cs i) →
    takePairs n cs = some ((List.range n).map (pairByte cs), cs.drop (2 * n))
  | 0, _, _ => rfl
  | n + 1, [], h => absurd (h 0 n.succ_pos) (by simp [IsPair])
  | n + 1, [hi], h => absurd (h 0 n.succ_pos) (by simp [IsPair])
  | n + 1, hi :: lo :: cs, h => by
    obtain ⟨hhi, hlo⟩ := isPair_cons_zero.mp (h 0 n.succ_pos)
    have ih := takePairs_of_isPair n cs fun i hi => isPair_cons_succ.mp (h (i + 1) (by omega))
    simp only [takePairs, hexVal?_of_isHex hhi, hexVal?_of_isHex hlo, ih, List.range_succ_eq_map, List.map_cons,
      List.map_map, Option.map_some]
    rfl

theorem isPair_of_takePairs : ∀ (n : Nat) (cs : List Byte) (r : List Byte × List Byte), takePairs n cs = some r →
    ∀ i < n, IsPair cs i
  | n + 1, [], _, h, _, _ => by simp [takePairs] at h
  | n + 1, [_], _, h, _, _ => by simp [takePairs] at h
  | n + 1, hi :: lo :: cs, r, h, i, hin => by
    simp only [takePairs] at h
    split at h
    case h_2 => cases h
    case h_1 a b ha hb =>
      obtain ⟨r', hr', -⟩ := Option.map_eq_some_iff.mp h
      cases i with
      | zero => exact isPair_cons_zero.mpr ⟨(hexVal?_eq_some_iff.mp ha).1, (hexVal?_eq_some_iff.mp hb).1⟩
      | succ i => exact isPair_cons_succ.mpr (isPair_of_takePairs n cs r' hr' i (by omega))

/-! The four checks (R70). -/

/-- Digits at the positions 0 to 2n - 1 are n pairs. -/
theorem forall_isPair_iff (cs : List Byte) (n : Nat) :
    (∀ i < n, IsPair cs i) ↔ ∀ j < 2 * n, isHex (cs.getD j 0) = true := by
  constructor
  · intro h j hj
    obtain ⟨heven, hodd⟩ := h (j / 2) (by omega)
    rcases Nat.mod_two_eq_zero_or_one j with hmod | hmod
    · rwa [show 2 * (j / 2) = j by omega] at heven
    · rwa [show 2 * (j / 2) + 1 = j by omega] at hodd
  · exact fun h i hi => ⟨h _ (by omega), h _ (by omega)⟩

theorem getD_drop (cs : List Byte) (k j : Nat) : (cs.drop k).getD j 0 = cs.getD (k + j) 0 := by
  simp [List.getD_eq_getElem?_getD]

theorem dataHex_iff (chars : List Byte) :
    dataHex chars = true ↔ ∀ i < min (dlcOf chars) 8, IsPair (chars.drop 4) i := by
  simp only [forall_isPair_iff, dataHex, List.all_eq_true, List.mem_range, any_isHex_getElem?, getD_drop]

theorem txLineOk_iff (chars : List Byte) :
    txLineOk chars = true ↔
      lenMin chars = true ∧ hdrHex chars = true ∧ lenDlc chars = true ∧ dataHex chars = true := by
  simp only [txLineOk, Bool.and_eq_true, and_assoc]

/-- The four checks on a line that has its four header characters. -/
theorem txLineOk_cons_iff {c1 c2 c3 c4 : Byte} {more : List Byte} :
    txLineOk (c1 :: c2 :: c3 :: c4 :: more) = true ↔
      (isHex c1 = true ∧ isHex c2 = true ∧ isHex c3 = true ∧ isHex c4 = true) ∧
        2 * (hexVal c4).toNat ≤ more.length ∧ ∀ i < payloadLen (hexVal c4), IsPair more i := by
  have hdlc : dlcOf (c1 :: c2 :: c3 :: c4 :: more) = (hexVal c4).toNat := rfl
  have hmin : lenMin (c1 :: c2 :: c3 :: c4 :: more) = true := by simp [lenMin]
  have hhdr : hdrHex (c1 :: c2 :: c3 :: c4 :: more) = true ↔
      isHex c1 = true ∧ isHex c2 = true ∧ isHex c3 = true ∧ isHex c4 = true := by
    simp [hdrHex, List.range_succ]
  have hlen : lenDlc (c1 :: c2 :: c3 :: c4 :: more) = true ↔ 2 * (hexVal c4).toNat ≤ more.length := by
    simp only [lenDlc, hdlc, List.length_cons, decide_eq_true_eq]
    omega
  rw [txLineOk_iff, hhdr, hlen, dataHex_iff, hdlc]
  exact ⟨fun ⟨_, h⟩ => h, fun h => ⟨hmin, h⟩⟩

theorem exists_cons_of_txLineOk {chars : List Byte} (h : txLineOk chars = true) :
    ∃ c1 c2 c3 c4 more, chars = c1 :: c2 :: c3 :: c4 :: more := by
  obtain ⟨hmin, -⟩ := (txLineOk_iff chars).mp h
  match chars with
  | [] | [_] | [_, _] | [_, _, _] => simp [lenMin] at hmin
  | c1 :: c2 :: c3 :: c4 :: more => exact ⟨c1, c2, c3, c4, more, rfl⟩

/-! The decoder of a transmit line. -/

/-- The operand fields of R68 by character position, as R69 assembles them. -/
def frameAt (chars : List Byte) : TxFrame :=
  { id := idOfDigits (hexVal (chars.getD 0 0)) (hexVal (chars.getD 1 0)) (hexVal (chars.getD 2 0))
    dlc := hexVal (chars.getD 3 0)
    data := (List.range (payloadLen (hexVal (chars.getD 3 0)))).map (pairByte (chars.drop 4)) }

/-- The characters after the operand fields. -/
def tailAt (chars : List Byte) : List Byte := (chars.drop 4).drop (2 * payloadLen (hexVal (chars.getD 3 0)))

theorem frameAt_ok (chars : List Byte) : (frameAt chars).ok = true := by
  simp [TxFrame.ok, frameAt]

/-- A transmit line that passes the checks decodes to its fields and the characters after them. -/
theorem decodeTransmit_of_txLineOk {chars : List Byte} (h : txLineOk chars = true) :
    decodeTransmit chars = .frame (frameAt chars) (tailAt chars) := by
  obtain ⟨c1, c2, c3, c4, more, rfl⟩ := exists_cons_of_txLineOk h
  obtain ⟨⟨h1, h2, h3, h4⟩, hlen, hpairs⟩ := txLineOk_cons_iff.mp h
  simp only [decodeTransmit, hexVal?_of_isHex, h1, h2, h3, h4, if_neg (Nat.not_lt.mpr hlen),
    takePairs_of_isPair _ _ hpairs]
  rfl

/-- A line keeps its bare characters unless it passes the checks. -/
theorem decodeTransmit_malformed_or_txLineOk (chars : List Byte) :
    decodeTransmit chars = .malformed chars ∨ txLineOk chars = true := by
  unfold decodeTransmit
  split
  case h_2 => exact .inl rfl
  case h_1 c1 c2 c3 c4 more =>
    split
    case h_2 => exact .inl rfl
    case h_1 v1 v2 v3 dlc hc1 hc2 hc3 hc4 =>
      obtain ⟨h1, -⟩ := hexVal?_eq_some_iff.mp hc1
      obtain ⟨h2, -⟩ := hexVal?_eq_some_iff.mp hc2
      obtain ⟨h3, -⟩ := hexVal?_eq_some_iff.mp hc3
      obtain ⟨h4, rfl⟩ := hexVal?_eq_some_iff.mp hc4
      split
      case isTrue => exact .inl rfl
      case isFalse hlong =>
        split
        case h_2 => exact .inl rfl
        case h_1 data tail hpairs =>
          exact .inr (txLineOk_cons_iff.mpr
            ⟨⟨h1, h2, h3, h4⟩, Nat.not_lt.mp hlong, isPair_of_takePairs _ _ _ hpairs⟩)

theorem decodeTransmit_of_not_txLineOk {chars : List Byte} (h : txLineOk chars = false) :
    decodeTransmit chars = .malformed chars :=
  (decodeTransmit_malformed_or_txLineOk chars).resolve_right (by simp [h])

/-- The Parse Result of a transmit line's operands: its frame exactly when the checks hold (R70, R103). -/
theorem decodeTransmit_result (chars : List Byte) :
    (decodeTransmit chars).result = if txLineOk chars = true then .transmit (frameAt chars) else .unrecognized := by
  cases h : txLineOk chars with
  | true => rw [decodeTransmit_of_txLineOk h]; rfl
  | false => rw [decodeTransmit_of_not_txLineOk h]; rfl

/-! The encoder of a transmit line. -/

/-- The fields of a frame and a tail are decoded as they were encoded (R68, R77). -/
theorem decodeTransmit_encodeTransmit_frame {f : TxFrame} {tail : List Byte} (hf : f.ok = true)
    (hlen : 2 * f.dlc.toNat ≤ 2 * payloadLen f.dlc + tail.length) :
    decodeTransmit (encodeTransmit (.frame f tail)) = .frame f tail := by
  have hdata : f.data.length = payloadLen f.dlc := by simpa [TxFrame.ok] using hf
  have hlong : ¬ (f.data.flatMap digitsOfByte ++ tail).length < 2 * f.dlc.toNat := by
    rw [List.length_append, flatMap_digits_length, hdata]
    exact Nat.not_lt.mpr hlen
  simp only [encodeTransmit, idDigits, List.cons_append, List.nil_append, decodeTransmit, hexVal?_hexChar,
    if_neg hlong, ← hdata, takePairs_digits, idOfDigits_extract]

theorem hexChar_hexVal {b : Byte} (h : isHex b = true) : hexChar (hexVal b) = b :=
  hexChar_of_hexVal? b _ (hexVal?_of_isHex h)

/-- Decoding a transmit line loses none of its characters. -/
theorem encodeTransmit_decodeTransmit (chars : List Byte) : encodeTransmit (decodeTransmit chars) = chars := by
  cases h : txLineOk chars with
  | false => rw [decodeTransmit_of_not_txLineOk h, encodeTransmit]
  | true =>
    rw [decodeTransmit_of_txLineOk h]
    obtain ⟨c1, c2, c3, c4, more, rfl⟩ := exists_cons_of_txLineOk h
    obtain ⟨⟨h1, h2, h3, h4⟩, -, hpairs⟩ := txLineOk_cons_iff.mp h
    obtain ⟨-, hmore⟩ := digits_of_takePairs _ _ _ _ (takePairs_of_isPair _ _ hpairs)
    simp only [encodeTransmit, frameAt, idDigits_idOfDigits]
    show hexChar (hexVal c1) :: hexChar (hexVal c2) :: hexChar (hexVal c3) :: hexChar (hexVal c4) :: _ = _
    rw [hexChar_hexVal h1, hexChar_hexVal h2, hexChar_hexVal h3, hexChar_hexVal h4]
    exact congrArg (c1 :: c2 :: c3 :: c4 :: ·) hmore.symm

end Sys2Proof
end

section
/-! Decoder and encoder (30_encoding.md R63 to R78): they invert each other, the opcode map is complete, the decoder follows
the table, and what it answers is well formed. -/

namespace Sys2Proof

/-! Bytes. -/

theorem isLower_iff {b : Byte} : isLower b = true ↔ 0x61 ≤ b.toNat ∧ b.toNat ≤ 0x7A := by
  simp [isLower]

theorem isLineByte_iff {b : Byte} : isLineByte b = true ↔ b ≠ nul ∧ b ≠ lf ∧ b ≠ cr ∧ isLower b = false := by
  simp [isLineByte, and_assoc]

/-- No lowercase letter is CR, LF or NUL. -/
theorem decodeByte_of_isLower {b : Byte} (h : isLower b = true) : decodeByte b = .feedLower b := by
  have hcr : b ≠ cr := by rintro rfl; exact absurd h (by decide)
  have hlf : b ≠ lf := by rintro rfl; exact absurd h (by decide)
  have hnul : b ≠ nul := by rintro rfl; exact absurd h (by decide)
  rw [decodeByte, if_neg hcr, if_neg hlf, if_neg hnul, if_pos h]

theorem decodeByte_of_isLineByte {b : Byte} (h : isLineByte b = true) : decodeByte b = .feedOther b := by
  obtain ⟨hnul, hlf, hcr, hlower⟩ := isLineByte_iff.mp h
  rw [decodeByte, if_neg hcr, if_neg hlf, if_neg hnul, if_neg (by simp [hlower])]

/-- The five classes of a byte (R64). -/
theorem decodeByte_cases (b : Byte) :
    (b = cr ∧ decodeByte b = .feedCr) ∨ (b = lf ∧ decodeByte b = .feedLf) ∨ (b = nul ∧ decodeByte b = .feedNul) ∨
      (isLower b = true ∧ decodeByte b = .feedLower b) ∨ (isLineByte b = true ∧ decodeByte b = .feedOther b) := by
  by_cases hcr : b = cr
  · exact .inl ⟨hcr, by rw [hcr]; rfl⟩
  by_cases hlf : b = lf
  · exact .inr (.inl ⟨hlf, by rw [hlf]; rfl⟩)
  by_cases hnul : b = nul
  · exact .inr (.inr (.inl ⟨hnul, by rw [hnul]; rfl⟩))
  cases hlower : isLower b with
  | true => exact .inr (.inr (.inr (.inl ⟨rfl, decodeByte_of_isLower hlower⟩)))
  | false =>
    have hline : isLineByte b = true := isLineByte_iff.mpr ⟨hnul, hlf, hcr, hlower⟩
    exact .inr (.inr (.inr (.inr ⟨hline, decodeByte_of_isLineByte hline⟩)))

/-! Lines. -/

theorem isOpcode_eq_false_iff {b : Byte} : isOpcode b = false ↔ b ≠ chO ∧ b ≠ chC ∧ b ≠ chT ∧ b ≠ chTLower := by
  simp [isOpcode, and_assoc]

theorem decodeLine_of_not_isOpcode {op : Byte} (h : isOpcode op = false) (rest : List Byte) :
    decodeLine (op :: rest) = .ok (.unrecognized op rest) := by
  obtain ⟨hO, hC, hT, ht⟩ := isOpcode_eq_false_iff.mp h
  rw [decodeLine, if_neg hO, if_neg hC, if_neg hT, if_neg ht]

/-- The five kinds of a line, by its first byte (R66). -/
theorem decodeLine_cons_cases (op : Byte) (rest : List Byte) :
    (op = chO ∧ decodeLine (op :: rest) = .ok (.openBus rest)) ∨
      (op = chC ∧ decodeLine (op :: rest) = .ok (.closeBus rest)) ∨
      (op = chT ∧ decodeLine (op :: rest) = .ok (.transmit (decodeTransmit rest))) ∨
      (op = chTLower ∧ decodeLine (op :: rest) = .ok (.transmitLc (decodeTransmit rest))) ∨
      (isOpcode op = false ∧ decodeLine (op :: rest) = .ok (.unrecognized op rest)) := by
  by_cases hO : op = chO
  · exact .inl ⟨hO, by rw [hO]; rfl⟩
  by_cases hC : op = chC
  · exact .inr (.inl ⟨hC, by rw [hC]; rfl⟩)
  by_cases hT : op = chT
  · exact .inr (.inr (.inl ⟨hT, by rw [hT]; rfl⟩))
  by_cases ht : op = chTLower
  · exact .inr (.inr (.inr (.inl ⟨ht, by rw [ht]; rfl⟩)))
  have hop : isOpcode op = false := isOpcode_eq_false_iff.mpr ⟨hO, hC, hT, ht⟩
  exact .inr (.inr (.inr (.inr ⟨hop, decodeLine_of_not_isOpcode hop rest⟩)))

/-! Poll answers. -/

/-- The three outcomes of a poll (R73). -/
theorem decodePoll_eq_ok {p : Params} {answer : Option RxFrame} {i : Instr} (h : decodePoll p answer = .ok i) :
    (answer = none ∧ i = .pollEmpty) ∨
      ∃ f, answer = some f ∧ f.ok p = true ∧ i = if f.ide = true then .rxExt f else .rxStd f := by
  cases answer with
  | none => cases h; exact .inl ⟨rfl, rfl⟩
  | some f =>
    cases hok : f.ok p with
    | false => simp [decodePoll, hok] at h
    | true =>
      simp only [decodePoll, hok, if_true] at h
      cases h
      exact .inr ⟨f, rfl, hok, rfl⟩

/-! The inverses. -/

/-- The operands of a well-formed transmit are decoded as they were encoded (R68, R77). -/
theorem decodeTransmit_encodeTransmit {p : Params} {arg : TxArg} (h : arg.wf p = true) :
    decodeTransmit (encodeTransmit arg) = arg := by
  cases arg with
  | frame f tail =>
    simp only [TxArg.wf, Bool.and_eq_true, decide_eq_true_eq] at h
    obtain ⟨⟨⟨hok, -⟩, hlen⟩, -⟩ := h
    exact decodeTransmit_encodeTransmit_frame hok hlen
  | malformed chars =>
    simp only [TxArg.wf, Bool.and_eq_true, Bool.not_eq_true'] at h
    exact decodeTransmit_of_not_txLineOk h.2

/-- Settles O2: row by row; the operands of a transmit are the one case that is more than a table look-up. -/
theorem decodeOfEncodeIsIdentity : Obligations.DecodeOfEncodeIsIdentity := by
  intro p i h
  cases i with
  | feedCr => rfl
  | feedLf => rfl
  | feedNul => rfl
  | feedLower b => exact congrArg Except.ok (decodeByte_of_isLower h)
  | feedOther b => exact congrArg Except.ok (decodeByte_of_isLineByte h)
  | openBus ignored => rfl
  | closeBus ignored => rfl
  | transmit arg => exact congrArg (Except.ok ∘ Instr.transmit) (decodeTransmit_encodeTransmit h)
  | transmitLc arg => exact congrArg (Except.ok ∘ Instr.transmitLc) (decodeTransmit_encodeTransmit h)
  | unrecognized op rest =>
    simp only [Instr.wf, Bool.and_eq_true, Bool.not_eq_true'] at h
    obtain ⟨⟨-, hop⟩, -⟩ := h
    exact decodeLine_of_not_isOpcode hop rest
  | pollEmpty => rfl
  | rxStd f =>
    simp only [Instr.wf, Bool.and_eq_true, Bool.not_eq_true'] at h
    simp [encode, decode, decodePoll, h.1, h.2]
  | rxExt f =>
    simp only [Instr.wf, Bool.and_eq_true] at h
    simp [encode, decode, decodePoll, h.1, h.2]

theorem encode_decodeByte (b : Byte) : encode (decodeByte b) = .byte b := by
  rcases decodeByte_cases b with ⟨rfl, h⟩ | ⟨rfl, h⟩ | ⟨rfl, h⟩ | ⟨-, h⟩ | ⟨-, h⟩ <;> rw [h] <;> rfl

theorem encode_of_decodeLine {chars : List Byte} {i : Instr} (h : decodeLine chars = .ok i) :
    encode i = .line chars := by
  cases chars with
  | nil => cases h
  | cons op rest =>
    rcases decodeLine_cons_cases op rest with ⟨rfl, hd⟩ | ⟨rfl, hd⟩ | ⟨rfl, hd⟩ | ⟨rfl, hd⟩ | ⟨-, hd⟩ <;>
      cases hd.symm.trans h
    · rfl
    · rfl
    · rw [encode, encodeTransmit_decodeTransmit]
    · rw [encode, encodeTransmit_decodeTransmit]
    · rfl

/-- Settles O3: format by format. -/
theorem encodeOfDecodeIsIdentity : Obligations.EncodeOfDecodeIsIdentity := by
  intro p x i h
  cases x with
  | byte b => cases h; exact encode_decodeByte b
  | line chars => exact encode_of_decodeLine h
  | poll answer =>
    rcases decodePoll_eq_ok h with ⟨rfl, rfl⟩ | ⟨f, rfl, -, rfl⟩
    · rfl
    · split <;> rfl

/-! The opcode map. -/

/-- Settles O4: every class of each format has its instruction. -/
theorem opcodeMapIsComplete : Obligations.OpcodeMapIsComplete := by
  intro p
  refine ⟨fun b => ⟨decodeByte b, rfl, ?_⟩, fun chars hne => ?_, fun answer hok => ?_, rfl, fun answer hbad => ?_⟩
  · rcases decodeByte_cases b with ⟨-, h⟩ | ⟨-, h⟩ | ⟨-, h⟩ | ⟨-, h⟩ | ⟨-, h⟩ <;> rw [h] <;> rfl
  · obtain ⟨op, rest, rfl⟩ := List.exists_cons_of_ne_nil hne
    rcases decodeLine_cons_cases op rest with ⟨-, h⟩ | ⟨-, h⟩ | ⟨-, h⟩ | ⟨-, h⟩ | ⟨-, h⟩ <;> exact ⟨_, h, rfl⟩
  · cases answer with
    | none => exact ⟨_, rfl, rfl⟩
    | some f =>
      have hf : f.ok p = true := hok
      exact ⟨_, if_pos hf, by split <;> rfl⟩
  · cases answer with
    | none => cases hbad
    | some f =>
      have hf : ¬ f.ok p = true := by simpa [answerOk] using hbad
      exact if_neg hf

/-! The table (R78). -/

/-- A row that fixes all 8 bits selects no other byte than its own. -/
theorem toNat_and_mask_ne {b c : Byte} (h : b ≠ c) : ¬ b.toNat &&& 0xFF = c.toNat := by
  rw [Nat.and_two_pow_sub_one_eq_mod b.toNat 8, Nat.mod_eq_of_lt b.isLt, ← BitVec.toNat_eq]
  exact h

/-- Below the three rows of one byte, the letter range decides (R64). -/
theorem tableMnemonic_byte_of_ne {b : Byte} (hcr : b ≠ cr) (hlf : b ≠ lf) (hnul : b ≠ nul) :
    tableMnemonic (.byte b) = some (if isLower b = true then "FEED_LOWER" else "FEED_OTHER") := by
  have hcr : ¬ b.toNat &&& 0xFF = 0x0D := toNat_and_mask_ne hcr
  have hlf : ¬ b.toNat &&& 0xFF = 0x0A := toNat_and_mask_ne hlf
  have hnul : ¬ b.toNat &&& 0xFF = 0x00 := toNat_and_mask_ne hnul
  simp only [isLower_iff]
  split_ifs with hlower <;>
    simp [tableMnemonic, opcodeTable, Row.selects, Input.format, Input.key, hcr, hlf, hnul, hlower]

theorem tableMnemonic_byte (b : Byte) : tableMnemonic (.byte b) = some (decodeByte b).mnemonic := by
  rcases decodeByte_cases b with ⟨rfl, h⟩ | ⟨rfl, h⟩ | ⟨rfl, h⟩ | ⟨hb, h⟩ | ⟨hb, h⟩
  · decide
  · decide
  · decide
  · have hne {c : Byte} (hc : isLower c = false) : b ≠ c := by rintro rfl; simp [hb] at hc
    rw [tableMnemonic_byte_of_ne (hne (by decide)) (hne (by decide)) (hne (by decide)), if_pos hb, h, Instr.mnemonic]
  · obtain ⟨hnul, hlf, hcr, hlower⟩ := isLineByte_iff.mp hb
    rw [tableMnemonic_byte_of_ne hcr hlf hnul, if_neg (by simp [hlower]), h, Instr.mnemonic]

/-- A line with none of the four opcodes is the last row's (R66). -/
theorem tableMnemonic_line_of_not_isOpcode {op : Byte} (h : isOpcode op = false) (rest : List Byte) :
    tableMnemonic (.line (op :: rest)) = some "UNRECOGNIZED" := by
  obtain ⟨hO, hC, hT, ht⟩ := isOpcode_eq_false_iff.mp h
  have hO : ¬ op.toNat &&& 0xFF = 0x4F := toNat_and_mask_ne hO
  have hC : ¬ op.toNat &&& 0xFF = 0x43 := toNat_and_mask_ne hC
  have hT : ¬ op.toNat &&& 0xFF = 0x54 := toNat_and_mask_ne hT
  have ht : ¬ op.toNat &&& 0xFF = 0x74 := toNat_and_mask_ne ht
  simp [tableMnemonic, opcodeTable, Row.selects, Input.format, Input.key, hO, hC, hT, ht]

theorem tableMnemonic_line {chars : List Byte} {i : Instr} (h : decodeLine chars = .ok i) :
    tableMnemonic (.line chars) = some i.mnemonic := by
  cases chars with
  | nil => cases h
  | cons op rest =>
    rcases decodeLine_cons_cases op rest with ⟨rfl, hd⟩ | ⟨rfl, hd⟩ | ⟨rfl, hd⟩ | ⟨rfl, hd⟩ | ⟨hop, hd⟩ <;>
      cases hd.symm.trans h
    · rfl
    · rfl
    · rfl
    · rfl
    · exact tableMnemonic_line_of_not_isOpcode hop rest

theorem tableMnemonic_poll {p : Params} {answer : Option RxFrame} {i : Instr} (h : decodePoll p answer = .ok i) :
    tableMnemonic (.poll answer) = some i.mnemonic := by
  rcases decodePoll_eq_ok h with ⟨rfl, rfl⟩ | ⟨f, rfl, -, rfl⟩
  · rfl
  · cases hide : f.ide <;>
      simp [tableMnemonic, opcodeTable, Row.selects, Input.format, Input.key, Instr.mnemonic, hide]

/-- Settles O5: format by format, the row found is that of the class decoded. -/
theorem decoderFollowsTheOpcodeTable : Obligations.DecoderFollowsTheOpcodeTable := by
  intro p x i h
  cases x with
  | byte b => cases h; exact tableMnemonic_byte b
  | line chars => exact tableMnemonic_line h
  | poll answer => exact tableMnemonic_poll h

/-! Well-formedness. -/

theorem decodeByte_wf (p : Params) (b : Byte) : (decodeByte b).wf p = true := by
  rcases decodeByte_cases b with ⟨-, h⟩ | ⟨-, h⟩ | ⟨-, h⟩ | ⟨hb, h⟩ | ⟨hb, h⟩ <;> rw [h]
  · rfl
  · rfl
  · rfl
  · exact hb
  · exact hb

/-- The operands of a transmit line within a command line are well formed (R65, R68, R70). -/
theorem decodeTransmit_wf {p : Params} {chars : List Byte} (h : charsOk p chars = true) :
    (decodeTransmit chars).wf p = true := by
  cases hok : txLineOk chars with
  | false => simp [decodeTransmit_of_not_txLineOk hok, TxArg.wf, h, hok]
  | true =>
    obtain ⟨c1, c2, c3, c4, more, rfl⟩ := exists_cons_of_txLineOk hok
    obtain ⟨-, hdeclared, -⟩ := txLineOk_cons_iff.mp hok
    simp only [charsOk, Bool.and_eq_true, decide_eq_true_eq, List.length_cons] at h
    obtain ⟨hbytes, hfit⟩ := h
    have htail : tailAt (c1 :: c2 :: c3 :: c4 :: more) = more.drop (2 * payloadLen (hexVal c4)) := rfl
    have hdlc : (frameAt (c1 :: c2 :: c3 :: c4 :: more)).dlc = hexVal c4 := rfl
    have hpayload := payloadLen_le_toNat (hexVal c4)
    rw [decodeTransmit_of_txLineOk hok]
    simp only [TxArg.wf, frameAt_ok, hdlc, htail, List.length_drop, Bool.and_eq_true, decide_eq_true_eq]
    refine ⟨⟨⟨trivial, ?_⟩, by omega⟩, by omega⟩
    rw [List.all_eq_true] at hbytes ⊢
    exact fun c hc => hbytes c (by simp [List.mem_of_mem_drop hc])

theorem decodeLine_wf {p : Params} {chars : List Byte} {i : Instr} (hline : lineOk p chars = true)
    (h : decodeLine chars = .ok i) : i.wf p = true := by
  cases chars with
  | nil => cases h
  | cons op rest =>
    simp only [lineOk, Bool.and_eq_true, decide_eq_true_eq, List.all_cons, List.length_cons] at hline
    obtain ⟨⟨-, hfit⟩, hop, hbytes⟩ := hline
    have hrest : charsOk p rest = true := by simp only [charsOk, hbytes, hfit, decide_true, Bool.and_self]
    rcases decodeLine_cons_cases op rest with ⟨rfl, hd⟩ | ⟨rfl, hd⟩ | ⟨rfl, hd⟩ | ⟨rfl, hd⟩ | ⟨hkind, hd⟩ <;>
      cases hd.symm.trans h
    · exact hrest
    · exact hrest
    · exact decodeTransmit_wf hrest
    · exact decodeTransmit_wf hrest
    · simp [Instr.wf, hop, hkind, hrest]

theorem decodePoll_wf {p : Params} {answer : Option RxFrame} {i : Instr} (h : decodePoll p answer = .ok i) :
    i.wf p = true := by
  rcases decodePoll_eq_ok h with ⟨-, rfl⟩ | ⟨f, -, hok, rfl⟩
  · rfl
  · split_ifs with hide <;> simp [Instr.wf, hok, hide]

/-- Settles O7: format by format. -/
theorem decodedInstructionsAreWellFormed : Obligations.DecodedInstructionsAreWellFormed := by
  refine fun p => ⟨fun b i h => ?_, fun chars i => decodeLine_wf, fun answer i => decodePoll_wf⟩
  cases h
  exact decodeByte_wf p b

/-! Fixed inputs and the byte ranges. -/

/-- Settles O1: each of the thirteen inputs is closed, and its decoding is evaluated. -/
theorem tableInputsDecode : Obligations.TableInputsDecode :=
  ⟨rfl, rfl, rfl, rfl, rfl, rfl, rfl, rfl, rfl, rfl, rfl, rfl, rfl⟩

/-- Settles O6: the classes of R64 exclude each other, and each is its range. -/
theorem byteClassesHaveTheirRanges : Obligations.ByteClassesHaveTheirRanges := by
  intro b
  rcases decodeByte_cases b with ⟨rfl, -⟩ | ⟨rfl, -⟩ | ⟨rfl, -⟩ | ⟨hb, h⟩ | ⟨hb, h⟩
  · decide
  · decide
  · decide
  · have hrange := isLower_iff.mp hb
    simp only [h, reduceCtorEq, true_iff, false_iff]
    omega
  · obtain ⟨hnul, hlf, hcr, hlower⟩ := isLineByte_iff.mp hb
    have hnul : b.toNat ≠ 0 := fun e => hnul (BitVec.eq_of_toNat_eq e)
    have hlf : b.toNat ≠ 0x0A := fun e => hlf (BitVec.eq_of_toNat_eq e)
    have hcr : b.toNat ≠ 0x0D := fun e => hcr (BitVec.eq_of_toNat_eq e)
    have hrange : ¬ (0x61 ≤ b.toNat ∧ b.toNat ≤ 0x7A) := by rw [← isLower_iff, hlower]; decide
    simp only [h, reduceCtorEq, true_iff, false_iff]
    omega

end Sys2Proof
end

section
/-! Parse (41_command_parser.md R100 to R107): the machine's parser is the pseudocode, and what the pseudocode says of the
checks, the operands and the tail of a transmit line. -/

namespace Sys2Proof

/-- Parse by the first byte of the line (R100). -/
theorem parse_cons (op : Byte) (chars : List Byte) :
    parse (op :: chars)
      = some (if op = chO then .openBus else if op = chC then .closeBus
          else if op = chT ∨ op = chTLower then (decodeTransmit chars).result else .unrecognized) := by
  rcases decodeLine_cons_cases op chars with ⟨rfl, h⟩ | ⟨rfl, h⟩ | ⟨rfl, h⟩ | ⟨rfl, h⟩ | ⟨hop, h⟩ <;>
    simp only [parse, h, Instr.parseResult]
  · rfl
  · rfl
  · rfl
  · rfl
  · obtain ⟨hO, hC, hT, ht⟩ := isOpcode_eq_false_iff.mp hop
    rw [if_neg hO, if_neg hC, if_neg (not_or.mpr ⟨hT, ht⟩)]

/-- A transmit line, with either opcode, parses by its four checks (R70, R103, R104). -/
theorem parse_transmit_line {op : Byte} (hop : op = 0x54 ∨ op = 0x74) (chars : List Byte) :
    parse (op :: chars)
      = some (if txLineOk chars = true then .transmit (frameAt chars) else .unrecognized) := by
  rw [parse_cons, decodeTransmit_result, if_pos hop]
  rcases hop with rfl | rfl <;> rfl

/-- Settles O8: the parser's answer is the conditional on the four checks. -/
theorem transmitLineNeedsTheFourChecks : Obligations.TransmitLineNeedsTheFourChecks := by
  intro op chars hop
  rw [← txLineOk_iff, parse_transmit_line hop]
  cases txLineOk chars <;> simp

/-- Settles O9: the frame is `frameAt`, field by field. -/
theorem transmitOperandsAreAssembled : Obligations.TransmitOperandsAreAssembled := by
  intro op chars f hop hparse
  rw [parse_transmit_line hop] at hparse
  obtain rfl : frameAt chars = f := by
    split_ifs at hparse <;> cases hparse
    rfl
  refine ⟨idOfDigits_toNat _ _ _, rfl, by simp [frameAt, payloadLen], fun i hi => ?_⟩
  have hlen : i < (frameAt chars).data.length := by simpa [frameAt, payloadLen] using hi
  have hpair : (frameAt chars).data.getD i 0 = pairByte (chars.drop 4) i := by
    rw [List.getD_eq_getElem _ _ hlen]
    simp [frameAt]
  rw [hpair, pairByte, byteOfDigits_toNat, getD_drop, getD_drop, show 5 + 2 * i = 4 + 2 * i + 1 by omega,
    show 6 + 2 * i = 4 + (2 * i + 1) + 1 by omega, List.getD_cons_succ, List.getD_cons_succ]

/-! The pseudocode. -/

/-- The identifier as the pseudocode shifts it together (R69). -/
theorem shiftOr_digits_eq_idOfDigits (v1 v2 v3 : BitVec 4) :
    (v1.setWidth 12 <<< 8) ||| (v2.setWidth 12 <<< 4) ||| v3.setWidth 12 = idOfDigits v1 v2 v3 := by
  have h1 := v1.isLt
  have h2 := v2.isLt
  have h3 := v3.isLt
  have hlow : v2.toNat <<< 4 ||| v3.toNat = v2.toNat * 16 + v3.toNat := by
    rw [← Nat.shiftLeft_add_eq_or_of_lt h3, Nat.shiftLeft_eq]
  have hall : v1.toNat <<< 8 ||| (v2.toNat <<< 4 ||| v3.toNat) = v1.toNat * 256 + v2.toNat * 16 + v3.toNat := by
    rw [hlow, ← Nat.shiftLeft_add_eq_or_of_lt (by omega), Nat.shiftLeft_eq]
    omega
  apply BitVec.eq_of_toNat_eq
  rw [idOfDigits_toNat, ← hall, ← Nat.or_assoc]
  simp only [BitVec.toNat_or, BitVec.toNat_shiftLeft, BitVec.toNat_setWidth, Nat.shiftLeft_eq]
  congr 2 <;> omega

/-- A payload byte as the pseudocode shifts it together (R69). -/
theorem shiftOr_digits_eq_byteOfDigits :
    ∀ hi lo : BitVec 4, (hi.setWidth 8 <<< 4) ||| lo.setWidth 8 = byteOfDigits hi lo := by decide

/-- DecodeTransmit of the pseudocode is the checks and the fields of R68 to R70. -/
theorem Pseudo.decodeTransmit_cons (op : Byte) (chars : List Byte) :
    Pseudo.decodeTransmit (op :: chars) = if txLineOk chars = true then .transmit (frameAt chars) else .unrecognized := by
  match chars with
  | [] | [_] | [_, _] | [_, _, _] => rfl
  | c1 :: c2 :: c3 :: c4 :: more =>
    have hhi (i : Nat) : Pseudo.pos (op :: c1 :: c2 :: c3 :: c4 :: more) (5 + 2 * i) = more.getD (2 * i) 0 := by
      rw [Nat.add_comm]; rfl
    have hlo (i : Nat) : Pseudo.pos (op :: c1 :: c2 :: c3 :: c4 :: more) (6 + 2 * i) = more.getD (2 * i + 1) 0 := by
      rw [Nat.add_comm]; rfl
    have h1 : Pseudo.pos (op :: c1 :: c2 :: c3 :: c4 :: more) 1 = c1 := rfl
    have h2 : Pseudo.pos (op :: c1 :: c2 :: c3 :: c4 :: more) 2 = c2 := rfl
    have h3 : Pseudo.pos (op :: c1 :: c2 :: c3 :: c4 :: more) 3 = c3 := rfl
    have h4 : Pseudo.pos (op :: c1 :: c2 :: c3 :: c4 :: more) 4 = c4 := rfl
    simp only [Pseudo.decodeTransmit, hhi, hlo, h1, h2, h3, h4, shiftOr_digits_eq_idOfDigits,
      shiftOr_digits_eq_byteOfDigits]
    have hlong : ¬ (op :: c1 :: c2 :: c3 :: c4 :: more).length < 5 := by simp
    rw [if_neg hlong]
    cases hok : txLineOk (c1 :: c2 :: c3 :: c4 :: more) with
    | true =>
      obtain ⟨⟨hd1, hd2, hd3, hd4⟩, hlen, hpairs⟩ := txLineOk_cons_iff.mp hok
      rw [if_neg (by simp [hd1, hd2, hd3, hd4]), if_neg (by simp; omega), if_pos rfl]
      exact if_pos hpairs
    | false =>
      rw [if_neg Bool.false_ne_true]
      split_ifs with hhdr hlen hpairs
      · rfl
      · rfl
      · have hdigits : isHex c1 = true ∧ isHex c2 = true ∧ isHex c3 = true ∧ isHex c4 = true := by
          simpa [and_assoc] using hhdr
        have hdeclared : 2 * (hexVal c4).toNat ≤ more.length := by simp at hlen; omega
        exact absurd (txLineOk_cons_iff.mpr ⟨hdigits, hdeclared, hpairs⟩) (by simp [hok])
      · rfl

theorem parse_eq_pseudo_parse {line : List Byte} (h : line ≠ []) : parse line = some (Pseudo.parse line) := by
  obtain ⟨op, chars, rfl⟩ := List.exists_cons_of_ne_nil h
  rw [parse_cons, decodeTransmit_result, ← Pseudo.decodeTransmit_cons op]
  rfl

/-- Settles O10: opcode by opcode, with DecodeTransmit of both sides the same checks and fields. -/
theorem parseIsThePseudocode : Obligations.ParseIsThePseudocode := fun _ h => parse_eq_pseudo_parse h

/-! What a transmit line's Parse Result does not depend on. -/

/-- Settles O11: the line would have to hold 5 + 2 * 14 characters (R71). -/
theorem dataLengthFourteenNeverFits : Obligations.DataLengthFourteenNeverFits := by
  intro op chars hop hline hdlc
  simp only [lineOk, Bool.and_eq_true, decide_eq_true_eq] at hline
  obtain ⟨⟨-, hfit⟩, -⟩ := hline
  have hbad : ¬ txLineOk chars = true := by
    intro hok
    obtain ⟨c1, c2, c3, c4, more, rfl⟩ := exists_cons_of_txLineOk hok
    obtain ⟨-, hdeclared, -⟩ := txLineOk_cons_iff.mp hok
    have hdlc : 14 ≤ (hexVal c4).toNat := hdlc
    have hcap : Params.default.cap = 31 := rfl
    simp only [List.length_cons] at hfit
    omega
  rw [parse_transmit_line hop, if_neg hbad]

theorem getD_eq_of_take_eq {cs cs' : List Byte} {n j : Nat} (h : cs.take n = cs'.take n) (hj : j < n) :
    cs.getD j 0 = cs'.getD j 0 := by
  have hget := congrArg (·[j]?) h
  simp only [List.getElem?_take, if_pos hj] at hget
  simp only [List.getD_eq_getElem?_getD, hget]

/-- Of the characters after the header, the checks read the declared length and the payload pairs only. -/
theorem txLineOk_congr {c1 c2 c3 c4 : Byte} {more more' : List Byte}
    (hlen : 2 * (hexVal c4).toNat ≤ more.length ↔ 2 * (hexVal c4).toNat ≤ more'.length)
    (htake : more.take (2 * payloadLen (hexVal c4)) = more'.take (2 * payloadLen (hexVal c4))) :
    txLineOk (c1 :: c2 :: c3 :: c4 :: more) = txLineOk (c1 :: c2 :: c3 :: c4 :: more') := by
  have hpairs : (∀ i < payloadLen (hexVal c4), IsPair more i) ↔ ∀ i < payloadLen (hexVal c4), IsPair more' i := by
    rw [forall_isPair_iff, forall_isPair_iff]
    exact forall₂_congr fun j hj => by rw [getD_eq_of_take_eq htake hj]
  rw [Bool.eq_iff_iff, txLineOk_cons_iff, txLineOk_cons_iff, hlen, hpairs]

theorem frameAt_congr {c1 c2 c3 c4 : Byte} {more more' : List Byte}
    (htake : more.take (2 * payloadLen (hexVal c4)) = more'.take (2 * payloadLen (hexVal c4))) :
    frameAt (c1 :: c2 :: c3 :: c4 :: more) = frameAt (c1 :: c2 :: c3 :: c4 :: more') := by
  have hpair : ∀ i ∈ List.range (payloadLen (hexVal c4)), pairByte more i = pairByte more' i := by
    intro i hi
    have hi := List.mem_range.mp hi
    rw [pairByte, pairByte, getD_eq_of_take_eq htake (by omega), getD_eq_of_take_eq htake (by omega)]
  exact congrArg (TxFrame.mk _ _) (List.map_congr_left hpair)

/-- The tail of a line is not read (R106). -/
theorem parse_congr_tail {op c1 c2 c3 c4 : Byte} {more more' : List Byte}
    (hlen : 2 * (hexVal c4).toNat ≤ more.length ↔ 2 * (hexVal c4).toNat ≤ more'.length)
    (htake : more.take (2 * payloadLen (hexVal c4)) = more'.take (2 * payloadLen (hexVal c4))) :
    parse (op :: c1 :: c2 :: c3 :: c4 :: more) = parse (op :: c1 :: c2 :: c3 :: c4 :: more') := by
  rw [parse_cons, parse_cons, decodeTransmit_result, decodeTransmit_result, txLineOk_congr hlen htake,
    frameAt_congr htake]

/-- Only a transmit line is read beyond its first byte. -/
theorem parse_congr_of_not_transmit {op : Byte} (hop : ¬ (op = 0x54 ∨ op = 0x74)) (chars chars' : List Byte) :
    parse (op :: chars) = parse (op :: chars') := by
  rw [parse_cons, parse_cons, if_neg hop, if_neg hop]

theorem exists_cons_of_five_le_length {l : List Byte} (h : 5 ≤ l.length) :
    ∃ op c1 c2 c3 c4 more, l = op :: c1 :: c2 :: c3 :: c4 :: more := by
  match l with
  | [] | [_] | [_, _] | [_, _, _] | [_, _, _, _] => simp at h
  | op :: c1 :: c2 :: c3 :: c4 :: more => exact ⟨op, c1, c2, c3, c4, more, rfl⟩

/-- Settles O12: both lines are long enough for the declared length and agree in what the checks and the frame read. -/
theorem parseDoesNotReadTheTail : Obligations.ParseDoesNotReadTheTail := by
  intro l l'
  dsimp only
  intro hl hl' htake
  obtain ⟨op, c1, c2, c3, c4, more, rfl⟩ := exists_cons_of_five_le_length (l := l) (by omega)
  obtain ⟨op', d1, d2, d3, d4, more', rfl⟩ := exists_cons_of_five_le_length (l := l') (by omega)
  have hdlc : (op :: c1 :: c2 :: c3 :: c4 :: more).getD 4 0 = c4 := rfl
  rw [hdlc] at hl hl' htake
  simp only [Nat.add_comm 5, List.take_succ_cons, List.cons.injEq] at htake
  obtain ⟨rfl, rfl, rfl, rfl, rfl, htake⟩ := htake
  simp only [List.length_cons] at hl hl'
  exact parse_congr_tail (iff_of_true (by omega) (by omega)) htake

/-- Settles O13: a cut at 31 bytes keeps the header, the payload pairs and, up to a declared length of 13, the
length check; without a digit at position 4 the checks fail for both lines. -/
theorem truncationKeepsTheParseResult : Obligations.TruncationKeepsTheParseResult := by
  intro line hne hcase
  obtain ⟨op, chars, rfl⟩ := List.exists_cons_of_ne_nil hne
  by_cases hop : op = 0x54 ∨ op = 0x74
  case neg => exact parse_congr_of_not_transmit hop _ _
  by_cases hshort : (op :: chars).length ≤ 31
  · rw [List.take_of_length_le hshort]
  obtain ⟨op, c1, c2, c3, c4, more, heq⟩ := exists_cons_of_five_le_length (l := op :: chars) (by omega)
  cases heq
  have hcut : (op :: c1 :: c2 :: c3 :: c4 :: more).take 31 = op :: c1 :: c2 :: c3 :: c4 :: more.take 26 := rfl
  rw [hcut]
  by_cases hdigit : isHex c4 = true
  · have hdlc : ¬ 14 ≤ (hexVal c4).toNat := fun h => hcase ⟨hop, hdigit, h⟩
    have hpayload := payloadLen_le (hexVal c4)
    refine parse_congr_tail ?_ ?_
    · rw [List.length_take]; omega
    · rw [List.take_take, Nat.min_eq_left (by omega)]
  · have hbad (cs : List Byte) : ¬ txLineOk (c1 :: c2 :: c3 :: c4 :: cs) = true := by
      rw [txLineOk_cons_iff]
      exact fun ⟨⟨_, _, _, h4⟩, _⟩ => hdigit h4
    rw [parse_transmit_line hop, parse_transmit_line hop, if_neg (hbad _), if_neg (hbad _)]

end Sys2Proof
end

section
/-! The notification of a standard frame (42_frame_codec.md R120 to R128): its shape, its fields read back, and Parse as its
inverse. -/

namespace Sys2Proof

/-- The digits of a notification between its 't' and its CR. -/
def notificationDigits (f : RxFrame) : List Byte :=
  rxIdDigits f.id ++ hexChar (BitVec.ofNat 4 f.dlc) :: f.data.flatMap digitsOfByte

theorem RxFrame.ok_iff {p : Params} {f : RxFrame} :
    f.ok p = true ↔ f.id < 2 ^ p.rxIdW ∧ f.dlc ≤ 8 ∧ f.data.length = f.dlc := by
  simp [RxFrame.ok, and_assoc]

theorem encodeFrame_extended {f : RxFrame} (h : f.ide = true) : encodeFrame f = [] := if_pos h

/-- A notification is 't', its digits and CR (R72). -/
theorem encodeFrame_standard {p : Params} {f : RxFrame} (hok : f.ok p = true) (h : f.ide = false) :
    encodeFrame f = chTLower :: (notificationDigits f ++ [cr]) := by
  have htake : f.data.take f.dlc = f.data := List.take_of_length_le (RxFrame.data_length_of_ok hok).le
  simp [encodeFrame, h, htake, notificationDigits]

theorem notificationDigits_length {p : Params} {f : RxFrame} (hok : f.ok p = true) :
    (notificationDigits f).length = 4 + 2 * f.dlc := by
  simp only [notificationDigits, rxIdDigits, List.length_append, List.length_cons, List.length_nil,
    flatMap_digits_length, RxFrame.data_length_of_ok hok]
  omega

/-- Every character of the digits is one that HexChar writes. -/
theorem exists_hexChar_of_mem_notificationDigits {f : RxFrame} {c : Byte} (h : c ∈ notificationDigits f) :
    ∃ v, c = hexChar v := by
  simp only [notificationDigits, rxIdDigits, digitsOfByte, List.mem_append, List.mem_cons, List.mem_flatMap,
    List.not_mem_nil, or_false] at h
  rcases h with (rfl | rfl | rfl) | rfl | ⟨b, -, rfl | rfl⟩ <;> exact ⟨_, rfl⟩

/-- Settles O15: the length and the character set are those of the digits between 't' and CR. -/
theorem notificationShape : Obligations.NotificationShape := by
  intro p f hok
  refine ⟨encodeFrame_extended, fun hstd => ?_⟩
  have hlen := notificationDigits_length hok
  rw [encodeFrame_standard hok hstd]
  refine ⟨by simp [hlen]; omega, rfl, by rw [← List.cons_append]; exact List.getLast?_concat, fun j hj1 hj2 => ?_⟩
  obtain ⟨k, rfl⟩ : ∃ k, j = k + 1 := ⟨j - 1, by omega⟩
  have hk : k < (notificationDigits f).length := by omega
  have hget : (chTLower :: (notificationDigits f ++ [cr])).getD (k + 1) 0 = (notificationDigits f)[k] := by
    simp [List.getD_eq_getElem?_getD, List.getElem?_append_left hk, hk]
  obtain ⟨v, hv⟩ := exists_hexChar_of_mem_notificationDigits (List.getElem_mem hk)
  rw [hget, hv, isHex_hexChar]

/-! The fields read back. -/

theorem rxIdDigits_eq_iff (m n : Nat) : rxIdDigits m = rxIdDigits n ↔ m % 2048 = n % 2048 := by
  have hdigit {a b : Nat} (ha : a < 16) (hb : b < 16) :
      hexChar (BitVec.ofNat 4 a) = hexChar (BitVec.ofNat 4 b) ↔ a = b := by
    refine ⟨fun h => ?_, fun h => by rw [h]⟩
    have hval := congrArg BitVec.toNat (hexChar_injective h)
    rwa [BitVec.toNat_ofNat, BitVec.toNat_ofNat, Nat.mod_eq_of_lt ha, Nat.mod_eq_of_lt hb] at hval
  simp only [rxIdDigits, List.cons.injEq, and_true]
  rw [hdigit (by omega) (by omega), hdigit (by omega) (by omega), hdigit (by omega) (by omega)]
  omega

theorem flatMap_digitsOfByte_injective {data data' : List Byte}
    (h : data.flatMap digitsOfByte = data'.flatMap digitsOfByte) : data = data' := by
  have hlen : data.length = data'.length := by
    have := congrArg List.length h
    simp only [flatMap_digits_length] at this
    omega
  have htaken := takePairs_digits data []
  rw [h, hlen, takePairs_digits] at htaken
  simpa using htaken.symm

/-- Settles O16: identifier, data length and payload are each read back from their digits. -/
theorem notificationIsInjective : Obligations.NotificationIsInjective := by
  intro p f g hf hg hfstd hgstd
  obtain ⟨-, hfdlc, -⟩ := RxFrame.ok_iff.mp hf
  obtain ⟨-, hgdlc, -⟩ := RxFrame.ok_iff.mp hg
  rw [encodeFrame_standard hf hfstd, encodeFrame_standard hg hgstd]
  constructor
  · intro h
    have hdigits : notificationDigits f = notificationDigits g := by simpa using h
    obtain ⟨hid, hrest⟩ := List.append_inj hdigits rfl
    obtain ⟨hdlc, hdata⟩ := List.cons.inj hrest
    have hdlc := congrArg BitVec.toNat (hexChar_injective hdlc)
    simp only [BitVec.toNat_ofNat] at hdlc
    exact ⟨(rxIdDigits_eq_iff _ _).mp hid, by omega, flatMap_digitsOfByte_injective hdata⟩
  · rintro ⟨hid, hdlc, hdata⟩
    rw [notificationDigits, notificationDigits, (rxIdDigits_eq_iff _ _).mpr hid, hdlc, hdata]

/-! Parse as the inverse of Encode (R127). -/

/-- The TX frame of the same identifier, data length and payload. -/
def RxFrame.toTx (f : RxFrame) : TxFrame :=
  { id := BitVec.ofNat 12 f.id, dlc := BitVec.ofNat 4 f.dlc, data := f.data }

/-- The identifier digits of a notification are those of a TX frame, whose twelfth bit is 0 (R47). -/
theorem idDigits_ofNat {id : Nat} (h : id ≤ 0x7FF) : idDigits (BitVec.ofNat 12 id) = rxIdDigits id := by
  have hfields : BitVec.ofNat 12 id
      = idOfDigits (BitVec.ofNat 4 (id / 256 % 8)) (BitVec.ofNat 4 (id / 16 % 16)) (BitVec.ofNat 4 (id % 16)) := by
    apply BitVec.eq_of_toNat_eq
    simp only [idOfDigits_toNat, BitVec.toNat_ofNat]
    omega
  rw [hfields, idDigits_idOfDigits, rxIdDigits]

/-- The digits of a notification are the operands of the transmit of the same frame. -/
theorem notificationDigits_eq_encodeTransmit {f : RxFrame} (h : f.id ≤ 0x7FF) :
    notificationDigits f = encodeTransmit (.frame f.toTx []) := by
  simp only [notificationDigits, encodeTransmit, RxFrame.toTx, idDigits_ofNat h, List.append_nil]

/-- A notification's digits behind either opcode of a transmit parse to the same frame (R127). -/
theorem parse_notificationDigits {p : Params} {f : RxFrame} {op : Byte} (hop : op = 0x54 ∨ op = 0x74)
    (hok : f.ok p = true) (h : f.id ≤ 0x7FF) : parse (op :: notificationDigits f) = some (.transmit f.toTx) := by
  obtain ⟨-, hdlc, hdata⟩ := RxFrame.ok_iff.mp hok
  have htoNat : (BitVec.ofNat 4 f.dlc).toNat = f.dlc := by rw [BitVec.toNat_ofNat]; omega
  have hpayload : payloadLen (BitVec.ofNat 4 f.dlc) = f.dlc := by rw [payloadLen, htoNat]; omega
  have htx : f.toTx.ok = true := by simp only [TxFrame.ok, RxFrame.toTx, hdata, hpayload, beq_self_eq_true]
  have hlen : 2 * f.toTx.dlc.toNat ≤ 2 * payloadLen f.toTx.dlc + ([] : List Byte).length := by
    simp only [RxFrame.toTx, hpayload, htoNat]; omega
  rw [notificationDigits_eq_encodeTransmit h, parse_cons, decodeTransmit_encodeTransmit_frame htx hlen, if_pos hop]
  rcases hop with rfl | rfl <;> rfl

/-- Settles O17: without its CR a notification is 't' and the operands of the transmit. -/
theorem frameRoundTrip : Obligations.FrameRoundTrip := by
  intro p f hok hstd hid
  have hline : (encodeFrame f).dropLast = chTLower :: notificationDigits f := by
    rw [encodeFrame_standard hok hstd, ← List.cons_append, List.dropLast_concat]
  rw [hline]
  exact parse_notificationDigits (.inr rfl) hok hid

end Sys2Proof
end

section
/-! The Line Assembler (40_line_assembler.md R85 to R93): one byte, then bursts of bytes. -/

namespace Sys2Proof

/-- A stored byte is a line byte (R25): case folding leaves no lowercase letter, NUL or terminator. -/
theorem isLineByte_upper : ∀ b : Byte, isTerminator b = false → b ≠ nul → isLineByte (upper b) = true := by decide

theorem upper_of_isLineByte {b : Byte} (h : isLineByte b = true) : upper b = b := by
  obtain ⟨-, -, -, hlower⟩ := isLineByte_iff.mp h
  exact if_neg (by simp [hlower])

end Sys2Proof

namespace Sys2Proof.Machine

/-! One byte. -/

@[simp] theorem exec_feedLower (b : Byte) (s : State) : exec (.feedLower b) s = .next (s.append (b - 0x20)) := rfl

@[simp] theorem exec_feedOther (b : Byte) (s : State) : exec (.feedOther b) s = .next (s.append b) := rfl

/-- Settles O20: the byte is discarded. -/
theorem nulIsDiscarded : Obligations.NulIsDiscarded := fun _ => rfl

theorem State.append_of_lt {s : State} (h : s.len < s.cap) (c : Byte) :
    s.append c = { s with lb := s.lb.write s.len c, len := s.len + 1, lineOut := none } := if_pos h

/-- A full buffer drops the byte (R89, R90). -/
theorem State.append_of_le {s : State} (h : s.cap ≤ s.len) (c : Byte) : s.append c = { s with lineOut := none } :=
  if_neg (Nat.not_lt.mpr h)

/-- The append writes cell LEN and LEN, and nothing else. -/
theorem State.append_frame {s : State} (h : s.len < s.cap) (c : Byte) :
    (s.append c).lb.read s.len = c ∧ (∀ i, i ≠ s.len → (s.append c).lb.read i = s.lb.read i) ∧
      s.append c = { s with lb := (s.append c).lb, len := s.len + 1, lineOut := none } := by
  rw [State.append_of_lt h]
  exact ⟨Memory.read_write_same _ _ _, fun i hi => Memory.read_write_of_ne _ _ hi, rfl⟩

/-- Settles O21: a letter is the class FEED_LOWER, whose meaning is the append of b - 0x20. -/
theorem lowercaseIsStoredAsUppercase : Obligations.LowercaseIsStoredAsUppercase := by
  intro s b hlo hhi
  exact ⟨decodeByte_of_isLower (isLower_iff.mpr ⟨hlo, hhi⟩),
    fun hroom => ⟨_, exec_feedLower b s, State.append_frame hroom _⟩,
    fun hfull => by rw [exec_feedLower, State.append_of_le hfull]⟩

/-- Settles O22: any other byte is the class FEED_OTHER, whose meaning is the append of the byte. -/
theorem otherBytesAreStoredUnchanged : Obligations.OtherBytesAreStoredUnchanged := by
  intro s b hcr hlf hnul hlower
  have hline : isLineByte b = true :=
    isLineByte_iff.mpr ⟨hnul, hlf, hcr, by rw [Bool.eq_false_iff, ne_eq, isLower_iff]; exact hlower⟩
  exact ⟨decodeByte_of_isLineByte hline,
    fun hroom => ⟨_, exec_feedOther b s, State.append_frame hroom _⟩,
    fun hfull => by rw [exec_feedOther, State.append_of_le hfull]⟩

/-! What Feed returns. -/

theorem exec_terminator {b : Byte} (h : isTerminator b = true) (s : State) :
    exec (decodeByte b) s = .next s.terminate := by
  rw [exec_decodeByte, if_pos h]

/-- A line is returned by a terminator only, and is the whole of a non-empty buffer (R86, R87). -/
theorem lineOut_of_exec_decodeByte {b : Byte} {s t : State} {chars : List Byte}
    (h : exec (decodeByte b) s = .next t) (hline : t.lineOut = some chars) :
    isTerminator b = true ∧ 0 < s.len ∧ chars = s.line ∧ t = s.terminate := by
  rw [exec_decodeByte] at h
  cases h
  split_ifs at hline with hterm hnul
  · rw [State.terminate_lineOut] at hline
    split_ifs at hline with hlen
    cases hline
    exact ⟨hterm, hlen, rfl, if_pos hterm⟩
  · simp at hline
  · simp at hline

theorem State.Inv.line_all {s : State} (h : s.Inv) : s.line.all isLineByte = true := by
  simp only [State.line, List.all_map, List.all_eq_true, List.mem_range]
  exact h.lineBytes

/-- Settles O25: the line is the buffer, which the invariant keeps within CAP and made of line bytes. -/
theorem completedLinesAreLegal : Obligations.CompletedLinesAreLegal := by
  intro s t b chars hinv hexec hline
  obtain ⟨hterm, hlen, rfl, rfl⟩ := lineOut_of_exec_decodeByte hexec hline
  have hcap : s.len ≤ s.params.cap := hinv.lenLe
  refine ⟨?_, hterm, hlen, s.terminate_len⟩
  simp only [lineOk, State.line_length, hinv.line_all, Bool.and_true, Bool.and_eq_true, decide_eq_true_eq]
  exact ⟨hlen, hcap⟩

/-- Settles O26: the opcode 't' is a lowercase letter, and no completed line holds one. -/
theorem transmitLcNeverComesFromIn : Obligations.TransmitLcNeverComesFromIn := by
  intro s t b chars hinv hexec hline arg hdecode
  obtain ⟨-, -, rfl, -⟩ := lineOut_of_exec_decodeByte hexec hline
  have hencode : Input.line (chTLower :: encodeTransmit arg) = .line s.line := encode_of_decodeLine hdecode
  have hall := hinv.line_all
  rw [← Input.line.inj hencode, List.all_cons, Bool.and_eq_true] at hall
  exact absurd hall.1 (by decide)

/-! Bursts. -/

@[simp] theorem feedAll_nil (s : State) : feedAll [] s = .next s := rfl

theorem feedAll_cons (b : Byte) (bs : List Byte) (s : State) :
    feedAll (b :: bs) s = andThen (exec (decodeByte b) s) (feedAll bs) := rfl

theorem feedAll_append (bs cs : List Byte) (s : State) :
    feedAll (bs ++ cs) s = andThen (feedAll bs s) (feedAll cs) := by
  induction bs generalizing s with
  | nil => rfl
  | cons b bs ih =>
    rw [List.cons_append, feedAll_cons, feedAll_cons, andThen_assoc]
    exact congrArg _ (funext ih)

/-- Terminators at an empty buffer do nothing but return no line. -/
theorem feedAll_terminators (more : List Byte) (t : State) (hlen : t.len = 0) (hne : more ≠ [])
    (hall : more.all isTerminator = true) : feedAll more t = .next { t with lineOut := none } := by
  induction more generalizing t with
  | nil => exact absurd rfl hne
  | cons e es ih =>
    obtain ⟨he, hes⟩ := Bool.and_eq_true_iff.mp (List.all_cons ▸ hall)
    rw [feedAll_cons, exec_terminator he, andThen_next, State.terminate_of_len_eq_zero hlen]
    cases es with
    | nil => rfl
    | cons e' es => exact ih { t with lineOut := none } hlen (List.cons_ne_nil _ _) hes

/-- Settles O24: after the first terminator LEN is 0, and each further one leaves it so and returns no line. -/
theorem terminatorRunsCompleteOneLine : Obligations.TerminatorRunsCompleteOneLine :=
  fun s _ he => ⟨_, exec_terminator he s, s.terminate_len, fun more => feedAll_terminators more _ s.terminate_len⟩

theorem isCommandByte_iff {b : Byte} : isCommandByte b = true ↔ isTerminator b = false ∧ b ≠ nul := by
  simp [isCommandByte]

theorem exec_commandByte {b : Byte} (h : isCommandByte b = true) (s : State) :
    exec (decodeByte b) s = .next (s.append (upper b)) := by
  obtain ⟨hterm, hnul⟩ := isCommandByte_iff.mp h
  rw [exec_decodeByte, if_neg (by simp [hterm]), if_neg hnul]

/-- Command bytes are stored, each uppercased, as far as the buffer has cells; only LB, LEN and the returned line are
written (R89, R90, R93). -/
theorem feedAll_commandBytes (bytes : List Byte) (s : State) (h : bytes.all isCommandByte = true) :
    ∃ t, feedAll bytes s = .next t ∧ t.line = s.line ++ (bytes.map upper).take (s.cap - s.len) ∧
      t = { s with lb := t.lb, len := t.len, lineOut := t.lineOut } := by
  induction bytes generalizing s with
  | nil => exact ⟨s, rfl, by simp, rfl⟩
  | cons b bs ih =>
    obtain ⟨hb, hbs⟩ := Bool.and_eq_true_iff.mp (List.all_cons ▸ h)
    obtain ⟨t, hfeed, hline, hframe⟩ := ih (s.append (upper b)) hbs
    refine ⟨t, by rw [feedAll_cons, exec_commandByte hb, andThen_next, hfeed], ?_, ?_⟩
    · have hcap : (s.append (upper b)).cap = s.cap := congrArg Params.cap (s.append_params _)
      rw [hline, State.append_line, hcap, State.append_len]
      by_cases hroom : s.len < s.cap
      · rw [if_pos hroom, if_pos hroom, List.append_assoc, show s.cap - s.len = s.cap - (s.len + 1) + 1 by omega]
        rfl
      · rw [if_neg hroom, if_neg hroom, Nat.sub_eq_zero_of_le (Nat.not_lt.mp hroom), List.take_zero, List.take_zero]
    · by_cases hroom : s.len < s.cap
      · rwa [State.append_of_lt hroom] at hframe
      · rwa [State.append_of_le (Nat.not_lt.mp hroom)] at hframe

/-- The terminator writes LEN and the returned line only. -/
theorem State.terminate_eq (s : State) : s.terminate = { s with len := 0, lineOut := s.terminate.lineOut } := by
  rcases Nat.eq_zero_or_pos s.len with hlen | hlen
  · rw [State.terminate_of_len_eq_zero hlen, ← hlen]
  · rw [State.terminate_of_len_pos hlen]

/-- From an empty buffer, command bytes and a terminator complete the line of what the buffer held of them (R93). -/
theorem feedAll_burst {s : State} {bytes : List Byte} {e : Byte} (hlen : s.len = 0)
    (hbytes : bytes.all isCommandByte = true) (he : isTerminator e = true) :
    ∃ t, feedAll (bytes ++ [e]) s = .next t ∧
      t.lineOut = (if (bytes.map upper).take s.cap = [] then none else some ((bytes.map upper).take s.cap)) ∧
      t = { s with lb := t.lb, lineOut := t.lineOut } := by
  obtain ⟨t, hfeed, hline, hframe⟩ := feedAll_commandBytes bytes s hbytes
  rw [State.line_eq_nil hlen, List.nil_append, hlen, Nat.sub_zero] at hline
  refine ⟨t.terminate, ?_, ?_, ?_⟩
  · rw [feedAll_append, hfeed, andThen_next, feedAll_cons, exec_terminator he, andThen_next, feedAll_nil]
  · simp only [← hline, State.terminate_lineOut, ← State.line_length, List.length_pos_iff, ite_not]
  · generalize hout : t.terminate.lineOut = out
    rw [State.terminate_eq, hout, hframe, hlen]

/-- Settles O23: the buffer holds the first CAP bytes, uppercased, and CAP is at least 1. -/
theorem burstIsTruncatedAtCap : Obligations.BurstIsTruncatedAtCap := by
  intro s bytes e hlegal hlen hbytes he
  obtain ⟨t, hfeed, hout, hframe⟩ := feedAll_burst hlen hbytes he
  refine ⟨t, hfeed, ?_, hframe⟩
  have hcap : s.cap ≠ 0 := by
    have : 2 ≤ s.params.maxLen := hlegal
    simp only [State.cap, Params.cap]
    omega
  simp only [hout, List.take_eq_nil_iff, List.map_eq_nil_iff, hcap, false_or, List.map_take]

/-! A notification as a burst (R127). -/

theorem isCommandByte_of_isLineByte {b : Byte} (h : isLineByte b = true) : isCommandByte b = true := by
  obtain ⟨hnul, hlf, hcr, -⟩ := isLineByte_iff.mp h
  exact isCommandByte_iff.mpr ⟨by simpa [isTerminator] using And.intro hcr hlf, hnul⟩

/-- The digits of a notification are line bytes, stored as they are. -/
theorem isLineByte_of_mem_notificationDigits {f : RxFrame} {c : Byte} (h : c ∈ notificationDigits f) :
    isLineByte c = true := by
  obtain ⟨v, rfl⟩ := exists_hexChar_of_mem_notificationDigits h
  exact isLineByte_hexChar v

/-- Settles O18: the notification is a burst of at most 21 command bytes; only its 't' is changed by case folding. -/
theorem notificationFedBackRoundTrips : Obligations.NotificationFedBackRoundTrips := by
  intro s f hok hstd hid hcap hlen
  obtain ⟨-, hdlc, -⟩ := RxFrame.ok_iff.mp hok
  have hdigits : (encodeFrame f).tail.dropLast = notificationDigits f := by
    rw [encodeFrame_standard hok hstd, List.tail_cons, List.dropLast_concat]
  have hbytes : (chTLower :: notificationDigits f).all isCommandByte = true := by
    rw [List.all_cons, List.all_eq_true.mpr fun c hc =>
      isCommandByte_of_isLineByte (isLineByte_of_mem_notificationDigits hc)]
    rfl
  have hupper : (chTLower :: notificationDigits f).map upper = chT :: notificationDigits f := by
    rw [List.map_cons, List.map_congr_left fun c hc =>
      upper_of_isLineByte (isLineByte_of_mem_notificationDigits hc), List.map_id']
    rfl
  have hfit : (chT :: notificationDigits f).take s.cap = chT :: notificationDigits f := by
    apply List.take_of_length_le
    rw [List.length_cons, notificationDigits_length hok]
    omega
  obtain ⟨t, hfeed, hout, hframe⟩ := feedAll_burst hlen hbytes (e := cr) rfl
  rw [hupper, hfit, if_neg (List.cons_ne_nil _ _)] at hout
  rw [hdigits]
  refine ⟨t, ?_, ?_, hout, parse_notificationDigits (.inl rfl) hok hid⟩
  · rw [encodeFrame_standard hok hstd]; exact hfeed
  · rw [hframe]; exact hlen

end Sys2Proof.Machine
end

section
/-! Dispatch (43_dispatch_scheduler.md R135 to R138): what it writes and records, as its pseudocode says. -/

namespace Sys2Proof.Machine

/-! The record. -/

theorem outBytes_append (es es' : List Event) : outBytes (es ++ es') = outBytes es ++ outBytes es' :=
  List.flatMap_append

@[simp] theorem outBytes_nil : outBytes [] = [] := rfl

@[simp] theorem outBytes_consume (b : Byte) (es : List Event) : outBytes (.consume b :: es) = outBytes es := rfl

@[simp] theorem outBytes_send (f : TxFrame) (ok : Bool) (es : List Event) : outBytes (.send f ok :: es) = outBytes es := rfl

@[simp] theorem outBytes_poll (a : Option RxFrame) (es : List Event) : outBytes (.poll a :: es) = outBytes es := rfl

@[simp] theorem outBytes_emit (bytes : List Byte) (es : List Event) :
    outBytes (.emit bytes :: es) = bytes ++ outBytes es := rfl

/-! The effect of each Parse Result. -/

/-- A send and its ack: TXFAIL and the record are written, and nothing else (R137). -/
theorem State.dispatch_transmit (s : State) (f : TxFrame) :
    s.dispatch (.transmit f)
      = { s with
          events := s.events ++ [.send f s.sendAnswer, .emit [0x0D]]
          txfail := if s.sendAnswer = true then s.txfail else (s.txfail + 1) % 2 ^ s.params.txFailW } := by
  simp only [State.dispatch, State.applyBus_transmit, State.transmit, State.ack_eq]
  cases s.sendAnswer <;> simp [State.countSend, State.record]

theorem State.dispatch_unrecognized (s : State) :
    s.dispatch .unrecognized = { s with events := s.events ++ [.emit [0x07]] } := rfl

/-! The registers no dispatch writes. -/

@[simp] theorem State.dispatch_params (s : State) (r : ParseResult) : (s.dispatch r).params = s.params := by
  cases r <;> simp [State.dispatch, State.transmit, State.ack, State.bell]

@[simp] theorem State.dispatch_lb (s : State) (r : ParseResult) : (s.dispatch r).lb = s.lb := by
  cases r <;> simp [State.dispatch, State.transmit, State.ack, State.bell]

@[simp] theorem State.dispatch_len (s : State) (r : ParseResult) : (s.dispatch r).len = s.len := by
  cases r <;> simp [State.dispatch, State.transmit, State.ack, State.bell]

@[simp] theorem State.dispatch_lineOut (s : State) (r : ParseResult) : (s.dispatch r).lineOut = s.lineOut := by
  cases r <;> simp [State.dispatch, State.transmit, State.ack, State.bell]

@[simp] theorem State.dispatch_stimuli (s : State) (r : ParseResult) : (s.dispatch r).stimuli = s.stimuli := by
  cases r <;> simp [State.dispatch, State.transmit, State.ack, State.bell]

@[simp] theorem State.dispatch_tick (s : State) (r : ParseResult) : (s.dispatch r).tick = s.tick := by
  cases r <;> simp [State.dispatch, State.transmit, State.ack, State.bell]

/-- A transmit line leaves BUS alone, well formed or not (R135). -/
theorem State.applyBus_result (s : State) (arg : TxArg) : s.applyBus arg.result = s := by
  cases arg <;> rfl

/-- Settles O28: both opcodes execute as the dispatch of Transmit. -/
theorem transmitSendsAndAcks : Obligations.TransmitSendsAndAcks := by
  rintro s f tail ok rfl
  rw [exec_line (i := .transmit (.frame f tail)) (r := .transmit f) rfl,
    exec_line (i := .transmitLc (.frame f tail)) (r := .transmit f) rfl,
    State.dispatch_transmit]
  exact ⟨rfl, rfl⟩

/-- Settles O29: an unknown opcode is UNRECOGNIZED, and all three instructions are the dispatch of Unrecognized. -/
theorem errorsRingTheBell : Obligations.ErrorsRingTheBell := by
  intro s op rest
  refine ⟨fun hO hC hT ht => decodeLine_of_not_isOpcode (isOpcode_eq_false_iff.mpr ⟨hO, hC, hT, ht⟩) rest, ?_, ?_, ?_⟩
  · rw [exec_line (i := .unrecognized op rest) rfl, State.dispatch_unrecognized]
  · rw [exec_line (i := .transmit (.malformed rest)) (r := .unrecognized) rfl, State.dispatch_unrecognized]
  · rw [exec_line (i := .transmitLc (.malformed rest)) (r := .unrecognized) rfl, State.dispatch_unrecognized]

/-! Against the pseudocode. -/

/-- `t` follows `s` as the registers and the added events of `after` say; the parameters and the outside's moves are
kept. The cells of LB at LEN and above and the returned line are left open. -/
structure Shows (s t : State) (after : Pseudo.Regs × List Event) : Prop where
  regs : Pseudo.Regs.of t = after.1
  events : t.events = s.events ++ after.2
  params : t.params = s.params
  stimuli : t.stimuli = s.stimuli
  tick : t.tick = s.tick

theorem Shows.trans {s t u : State} {r r' : Pseudo.Regs} {es es' : List Event} (h : Shows s t (r, es))
    (h' : Shows t u (r', es')) : Shows s u (r', es ++ es') where
  regs := h'.regs
  events := by rw [h'.events, h.events, List.append_assoc]
  params := h'.params.trans h.params
  stimuli := h'.stimuli.trans h.stimuli
  tick := h'.tick.trans h.tick

/-- The answer to a send is a draw of the move, which no part of the step changes. -/
theorem Shows.sendAnswer {s t : State} {after : Pseudo.Regs × List Event} (h : Shows s t after) :
    t.sendAnswer = s.sendAnswer := by
  rw [State.sendAnswer, State.sendAnswer, stimulus_congr h.params h.stimuli h.tick, h.tick]

/-- Dispatch is its pseudocode (R136). -/
theorem State.dispatch_shows (s : State) (r : ParseResult) :
    Shows s (s.dispatch r) (Pseudo.dispatch s.params s.sendAnswer r (Pseudo.Regs.of s)) := by
  cases r with
  | openBus => rw [State.dispatch_openBus]; exact ⟨rfl, rfl, rfl, rfl, rfl⟩
  | closeBus => rw [State.dispatch_closeBus]; exact ⟨rfl, rfl, rfl, rfl, rfl⟩
  | transmit f => rw [State.dispatch_transmit]; exact ⟨rfl, rfl, rfl, rfl, rfl⟩
  | unrecognized => rw [State.dispatch_unrecognized]; exact ⟨rfl, rfl, rfl, rfl, rfl⟩

/-- One response byte per dispatch (R136). -/
theorem Pseudo.outBytes_dispatch (p : Params) (ok : Bool) (r : ParseResult) (regs : Pseudo.Regs) :
    outBytes (Pseudo.dispatch p ok r regs).2 = [if r = .unrecognized then 0x07 else 0x0D] := by
  cases r <;> rfl

/-- A line that decodes is not empty, and its instruction has the Parse Result of the pseudocode (R100). -/
theorem parseResult_of_decodeLine {line : List Byte} {i : Instr} (h : decodeLine line = .ok i) :
    i.parseResult = some (Pseudo.parse line) := by
  have hne : line ≠ [] := by rintro rfl; cases h
  rw [← parse_eq_pseudo_parse hne, parse, h]

/-- Settles O30: the instruction executes as the dispatch of the line's Parse Result. -/
theorem oneResponsePerLine : Obligations.OneResponsePerLine := by
  intro s line i h
  have hshows := s.dispatch_shows (Pseudo.parse line)
  refine ⟨_, exec_line (parseResult_of_decodeLine h) s, ?_, Prod.ext hshows.regs hshows.events⟩
  rw [State.out, hshows.events, outBytes_append, Pseudo.outBytes_dispatch]
  rfl

/-! The frame of every instruction. -/

/-- A cell other than LEN, or any cell of a full buffer, reads after the append as before. -/
theorem State.append_read_of_not {s : State} {j : Nat} (h : ¬ (j = s.len ∧ s.len < s.cap)) (c : Byte) :
    (s.append c).lb.read j = s.lb.read j := by
  by_cases hroom : s.len < s.cap
  · rw [State.append_of_lt hroom]
    exact Memory.read_write_of_ne _ _ fun hj => h ⟨hj, hroom⟩
  · rw [State.append_of_le (Nat.not_lt.mp hroom)]

/-- Settles O33: BYTE rows are the three operations of Feed, LINE rows a dispatch, RXFRAME rows an emission. -/
theorem registersKeptByEachInstruction : Obligations.RegistersKeptByEachInstruction := by
  intro i s t h
  cases i with
  | feedCr => cases h; simp [Instr.format]
  | feedLf => cases h; simp [Instr.format]
  | feedNul => cases h; simp [Instr.format]
  | feedLower b =>
    cases h
    refine ⟨by simp, by simp, by simp, by simp [Instr.format], by simp, fun j hj => ?_, by simp, by simp⟩
    exact State.append_read_of_not (fun ⟨hlen, hroom⟩ => hj ⟨hlen, hroom, b, .inl rfl⟩) _
  | feedOther b =>
    cases h
    refine ⟨by simp, by simp, by simp, by simp [Instr.format], by simp, fun j hj => ?_, by simp, by simp⟩
    exact State.append_read_of_not (fun ⟨hlen, hroom⟩ => hj ⟨hlen, hroom, b, .inr rfl⟩) _
  | openBus ignored => rw [exec_line rfl, State.dispatch_openBus] at h; cases h; simp [Instr.format]
  | closeBus ignored => rw [exec_line rfl, State.dispatch_closeBus] at h; cases h; simp [Instr.format]
  | transmit arg =>
    cases (exec_line rfl s).symm.trans h
    simp [Instr.format, State.dispatch_bus, State.applyBus_result]
  | transmitLc arg =>
    cases (exec_line rfl s).symm.trans h
    simp [Instr.format, State.dispatch_bus, State.applyBus_result]
  | unrecognized op rest => rw [exec_line rfl, State.dispatch_unrecognized] at h; cases h; simp [Instr.format]
  | pollEmpty => cases h; simp [Instr.format]
  | rxStd f => cases h; simp [Instr.format]
  | rxExt f => cases h; simp [Instr.format]

end Sys2Proof.Machine
end

section
/-! The iteration against the pseudocode Step (43_dispatch_scheduler.md R139 to R144), phase by phase, and what follows from it. -/

namespace Sys2Proof.Pseudo

open Sys2Proof.Machine

/-! Phase 1 of the pseudocode. -/

/-- Feed returns a line only on a terminator, and then the whole of a non-empty buffer (R85). -/
theorem feed_eq_some {cap : Nat} {b : Byte} {buffer line : List Byte} (h : (feed cap b buffer).2 = some line) :
    isTerminator b = true ∧ 0 < buffer.length ∧ line = buffer ∧ (feed cap b buffer).1 = [] := by
  unfold feed at h ⊢
  split_ifs at h ⊢ with hb hlen
  cases h
  exact ⟨by simpa [isTerminator] using hb, hlen, rfl, rfl⟩

/-- Phase 1 either completes no line, and then writes the line buffer only and records at most the byte taken; or it
completes the line of a non-empty buffer and dispatches it (R139, R140). -/
theorem phase1_cases (p : Params) (d : Draws) (r : Regs) :
    (∃ line es, phase1 p d r = ({ r with line := line }, es) ∧ (es = [] ∨ ∃ b, es = [.consume b])) ∨
      ∃ b, d.inb = some b ∧ isTerminator b = true ∧ 0 < r.line.length ∧
        phase1 p d r
          = ((dispatch p d.sendOk (parse r.line) { r with line := [] }).1,
              .consume b :: (dispatch p d.sendOk (parse r.line) { r with line := [] }).2) := by
  unfold phase1
  cases hinb : d.inb with
  | none => exact .inl ⟨r.line, [], rfl, .inl rfl⟩
  | some b =>
    dsimp only
    cases hfed : (feed p.cap b r.line).2 with
    | none => exact .inl ⟨_, _, rfl, .inr ⟨b, rfl⟩⟩
    | some line =>
      obtain ⟨hterm, hlen, rfl, hempty⟩ := feed_eq_some hfed
      rw [hempty]
      exact .inr ⟨b, rfl, hterm, hlen, rfl⟩

end Sys2Proof.Pseudo

namespace Sys2Proof.Machine

/-! Feed. -/

theorem State.terminate_shows (s : State) :
    Shows s s.terminate ({ Pseudo.Regs.of s with line := [] }, []) := by
  constructor <;> simp [Pseudo.Regs.of]

theorem State.discard_shows (s : State) : Shows s s.discard (Pseudo.Regs.of s, []) := by
  constructor <;> simp [Pseudo.Regs.of, State.line]

theorem State.append_shows (s : State) (c : Byte) :
    Shows s (s.append c)
      ({ Pseudo.Regs.of s with line := if s.len < s.cap then s.line ++ [c] else s.line }, []) := by
  constructor <;> simp [Pseudo.Regs.of, State.append_line]

/-- Feed is its pseudocode: the line buffer afterwards and the completed line (R85). -/
theorem exec_decodeByte_shows (b : Byte) (s : State) :
    ∃ u, exec (decodeByte b) s = .next u ∧ u.lineOut = (Pseudo.feed s.cap b s.line).2 ∧
      Shows s u ({ Pseudo.Regs.of s with line := (Pseudo.feed s.cap b s.line).1 }, []) := by
  refine ⟨_, exec_decodeByte b s, ?_⟩
  have hterm : (b = 0x0D ∨ b = 0x0A) ↔ isTerminator b = true := by simp [isTerminator]
  simp only [Pseudo.feed, hterm, State.line_length]
  split_ifs with h1 hlen h3 hroom
  · exact ⟨by rw [State.terminate_lineOut, if_pos hlen], s.terminate_shows⟩
  · have hempty : s.line = [] := State.line_eq_nil (by omega)
    exact ⟨by rw [State.terminate_lineOut, if_neg hlen], hempty ▸ s.terminate_shows⟩
  · exact ⟨rfl, s.discard_shows⟩
  · exact ⟨State.append_lineOut _ _, by simpa only [if_pos hroom] using s.append_shows (upper b)⟩
  · exact ⟨State.append_lineOut _ _, by simpa only [if_neg hroom] using s.append_shows (upper b)⟩

/-! The phases. -/

/-- A completed line is dispatched as the pseudocode dispatches it, and is gone (R28, R136). -/
theorem runCompletedLine_shows {s : State} {chars : List Byte} (h : s.lineOut = some chars) (hne : chars ≠ []) :
    ∃ t, runCompletedLine s = .next t ∧ t.lineOut = none ∧
      Shows s t (Pseudo.dispatch s.params s.sendAnswer (Pseudo.parse chars) (Pseudo.Regs.of s)) := by
  refine ⟨_, runCompletedLine_some h (parse_eq_pseudo_parse hne), State.dispatch_lineOut _ _, ?_⟩
  have hshows := s.discard.dispatch_shows (Pseudo.parse chars)
  exact ⟨hshows.regs, hshows.events, hshows.params, hshows.stimuli, hshows.tick⟩

/-- Phase 1 is its pseudocode (R139, R140). -/
theorem phase1_shows {s : State} {d : Draws} (hans : s.sendAnswer = d.sendOk) (hline : s.lineOut = none) :
    ∃ u, phase1 d.inb s = .next u ∧ u.lineOut = none ∧ Shows s u (Pseudo.phase1 s.params d (Pseudo.Regs.of s)) := by
  unfold Pseudo.phase1
  cases hinb : d.inb with
  | none => exact ⟨s, rfl, hline, rfl, (List.append_nil _).symm, rfl, rfl, rfl⟩
  | some b =>
    have hconsume : Shows s (s.consume b) (Pseudo.Regs.of s, [.consume b]) := ⟨rfl, rfl, rfl, rfl, rfl⟩
    obtain ⟨u, hexec, hout, hfed⟩ := exec_decodeByte_shows b (s.consume b)
    have hu := hconsume.trans hfed
    rw [phase1_some, hexec, andThen_next]
    change u.lineOut = (Pseudo.feed s.params.cap b s.line).2 at hout
    dsimp only [Pseudo.Regs.of]
    cases hfeed : (Pseudo.feed s.params.cap b s.line).2 with
    | none =>
      rw [hfeed] at hout
      exact ⟨u, runCompletedLine_none hout, hout, hu⟩
    | some line =>
      rw [hfeed] at hout
      obtain ⟨-, hlen, rfl, -⟩ := Pseudo.feed_eq_some hfeed
      obtain ⟨t, hrun, htout, ht⟩ := runCompletedLine_shows hout (List.length_pos_iff.mp hlen)
      rw [hu.params, hu.sendAnswer, hans, hu.regs] at ht
      exact ⟨t, hrun, htout, hu.trans ht⟩

/-- Phase 2 is its pseudocode, for an answer within the RX frame type when it is consulted (R139, R141). -/
theorem phase2_shows {s : State} {d : Draws} (h : s.bus = .closed ∨ answerOk s.params d.answer = true) :
    ∃ t, phase2 d.answer s = .next t ∧ t.lineOut = s.lineOut ∧
      Shows s t (Pseudo.Regs.of s, Pseudo.phase2 d (Pseudo.Regs.of s)) := by
  unfold Pseudo.phase2
  cases hbus : s.bus with
  | closed =>
    refine ⟨s, phase2_closed hbus _, rfl, rfl, ?_, rfl, rfl, rfl⟩
    simp [Pseudo.Regs.of, hbus]
  | opened =>
    have hok : answerOk s.params d.answer = true := h.resolve_left (by simp [hbus])
    refine ⟨_, phase2_opened hbus hok, by simp, by simp [Pseudo.Regs.of, State.line], ?_, by simp, by simp, by simp⟩
    cases hans : d.answer with
    | none => simp [Pseudo.Regs.of, hbus]
    | some f =>
      have hencode : encodeFrame f = Pseudo.encode f :=
        encodeIsThePseudocode s.params f (by simpa [hans, answerOk] using hok)
      cases hide : f.ide with
      | true => simp [Pseudo.Regs.of, hbus, hide, encodeFrame_extended hide]
      | false =>
        have hlen : (Pseudo.encode f).length = 6 + 2 * f.dlc := Pseudo.encode_length hide
        have hne : Pseudo.encode f ≠ [] := List.ne_nil_of_length_pos (by omega)
        simp [Pseudo.Regs.of, hbus, hide, hencode, hne]

/-! The iteration. -/

/-- BUS, as phase 1 leaves it, is CLOSED, or the answer drawn for the poll is an RX frame or none: the condition under
which an iteration completes (U9, R142). -/
def Completes (s : State) (d : Draws) : Prop :=
  (Pseudo.phase1 s.params d (Pseudo.Regs.of s)).1.bus = .closed ∨ answerOk s.params d.answer = true

/-- An iteration is phase 1 on a state without a returned line, phase 2, and the end of the move (R139). -/
theorem step_of_iteration {s : State} {d : Draws} (hd : s.stimulus = .iteration d) :
    step s = andThen (phase1 d.inb s.discard) fun t => andThen (phase2 d.answer t) fun u => .next u.advance := by
  simp only [step, move, hd, iterate, andThen_assoc]

/-- Phase 1 of an iteration always completes, as its pseudocode says. -/
theorem phase1_of_iteration {s : State} {d : Draws} (hd : s.stimulus = .iteration d) :
    ∃ u, phase1 d.inb s.discard = .next u ∧ u.lineOut = none ∧
      Shows s u (Pseudo.phase1 s.params d (Pseudo.Regs.of s)) := by
  have hans : s.discard.sendAnswer = d.sendOk := (s.discard_shows.sendAnswer).trans (sendAnswer_of_stimulus hd)
  obtain ⟨u, hrun, hline, h⟩ := phase1_shows hans s.discard_lineOut
  exact ⟨u, hrun, hline, h.regs, h.events, h.params, h.stimuli, h.tick⟩

/-- An iteration that completes is the pseudocode Step (R139, R143, R144). -/
theorem step_shows {s : State} {d : Draws} (hd : s.stimulus = .iteration d) (h : Completes s d) :
    ∃ t, step s = .next t ∧ t.lineOut = none ∧ Shows s.advance t (Pseudo.step s.params d (Pseudo.Regs.of s)) := by
  obtain ⟨u, hrun1, hline, hu⟩ := phase1_of_iteration hd
  have hconsulted : u.bus = .closed ∨ answerOk u.params d.answer = true := by
    rw [hu.params]
    exact h.imp_left fun hbus => (congrArg Pseudo.Regs.bus hu.regs).trans hbus
  obtain ⟨v, hrun2, hvline, hv⟩ := phase2_shows hconsulted
  rw [hu.regs] at hv
  have hsv := hu.trans hv
  refine ⟨v.advance, ?_, hvline.trans hline, ?_⟩
  · rw [step_of_iteration hd, hrun1, andThen_next, hrun2, andThen_next]
  · exact ⟨hsv.regs, hsv.events, hsv.params, congrArg List.tail hsv.stimuli, congrArg (· + 1) hsv.tick⟩

/-- An answer outside the RX frame type is refused when BUS is OPEN after phase 1 (U9). -/
theorem step_refused {s : State} {d : Draws} (hd : s.stimulus = .iteration d) (h : ¬ Completes s d) :
    step s = .refused .answerOutsideType := by
  obtain ⟨hbus, hbad⟩ := not_or.mp h
  obtain ⟨u, hrun, -, hu⟩ := phase1_of_iteration hd
  have hopened : u.bus = .opened := by
    rw [← congrArg Pseudo.Regs.bus hu.regs] at hbus
    cases hb : u.bus with
    | opened => rfl
    | closed => exact absurd hb hbus
  rw [step_of_iteration hd, hrun, andThen_next,
    phase2_opened_refused hopened (by rw [hu.params]; simpa using hbad), andThen_refused]

/-- What an iteration that answers a next state can do: it completes, as the pseudocode Step says. -/
theorem step_eq_next {s t : State} {d : Draws} (hd : s.stimulus = .iteration d) (h : step s = .next t) :
    Completes s d ∧ t.lineOut = none ∧ Shows s.advance t (Pseudo.step s.params d (Pseudo.Regs.of s)) := by
  by_cases hc : Completes s d
  · obtain ⟨u, hstep, hline, hu⟩ := step_shows hd hc
    cases hstep.symm.trans h
    exact ⟨hc, hline, hu⟩
  · simp [step_refused hd hc] at h

/-- A RESET event is a move of its own (R175). -/
theorem step_of_reset {s : State} (h : s.stimulus = .reset) : step s = .next s.resetEvent.advance := by
  simp only [step, move, h]

/-- Settles O35: an admissible answer lets the iteration complete. -/
theorem stepIsThePseudocode : Obligations.StepIsThePseudocode := by
  intro s d hd hok
  obtain ⟨t, hstep, hline, ht⟩ := step_shows hd (.inr hok)
  exact ⟨t, hstep, ht.regs, ht.events, ht.params, hline, ht.stimuli, ht.tick⟩

/-- Settles O36: whether the answer is consulted is whether the iteration completes. -/
theorem answerOutsideTheTypeIsRefused : Obligations.AnswerOutsideTheTypeIsRefused := by
  intro s d hd hbad
  refine ⟨fun hopened => step_refused hd ?_, fun hclosed => ?_⟩
  · simp [Completes, hopened, hbad]
  · obtain ⟨t, hstep, -, ht⟩ := step_shows hd (.inl hclosed)
    exact ⟨t, hstep, (congrArg Pseudo.Regs.bus ht.regs).trans hclosed⟩

/-- Settles O37: the next move, scripted or free, is a RESET or draws an admissible answer. -/
theorem everyStepCompletes : Obligations.EveryStepCompletes := by
  intro s h
  have hok : s.stimulus.ok s.params = true := by
    unfold State.stimulus
    cases hs : s.stimuli with
    | nil => exact freeStimulus_ok _ _
    | cons x xs => exact h x (by simp [hs])
  cases hd : s.stimulus with
  | reset => exact ⟨_, step_of_reset hd⟩
  | iteration d =>
    rw [hd] at hok
    obtain ⟨t, hstep, -⟩ := step_shows hd (.inr hok)
    exact ⟨t, hstep⟩

end Sys2Proof.Machine
end

section
/-! What follows for one step: the registers each kind of move writes, the record it adds, and what it does not read. -/

namespace Sys2Proof.Pseudo

open Sys2Proof.Machine

/-! The events of the pseudocode. -/

theorem phase2_filter_isSend (d : Draws) (r : Regs) : (phase2 d r).filter Event.isSend = [] := by
  unfold phase2
  split
  · rfl
  · rfl
  · split_ifs <;> rfl

/-- What phase 2 puts on OUT: nothing, or one notification of 6 to 22 bytes (R124). -/
theorem phase2_outBytes {p : Params} {d : Draws} {r : Regs} (h : r.bus = .closed ∨ answerOk p d.answer = true) :
    outBytes (phase2 d r) = [] ∨ 6 ≤ (outBytes (phase2 d r)).length ∧ (outBytes (phase2 d r)).length ≤ 22 := by
  unfold phase2
  split
  case h_1 => exact .inl rfl
  case h_2 => exact .inl rfl
  case h_3 f hbus hans =>
    cases hide : f.ide with
    | true => exact .inl rfl
    | false =>
      have hok : f.ok p = true := by simpa [hbus, hans, answerOk] using h
      obtain ⟨-, hdlc, -⟩ := RxFrame.ok_iff.mp hok
      have hlen : (Pseudo.encode f).length = 6 + 2 * f.dlc := encode_length hide
      have hbytes : outBytes (.poll (some f) :: if false = true then [] else [.emit (encode f)]) = encode f := by simp
      rw [hbytes, hlen]
      exact .inr ⟨by omega, by omega⟩

/-- What phase 1 puts on OUT: nothing, or one response (R136, R140). -/
theorem phase1_outBytes_length (p : Params) (d : Draws) (r : Regs) : (outBytes (phase1 p d r).2).length ≤ 1 := by
  rcases phase1_cases p d r with ⟨line, es, h, rfl | ⟨b, rfl⟩⟩ | ⟨b, -, -, -, h⟩
  · simp [h]
  · simp [h]
  · rw [h, outBytes_consume, Pseudo.outBytes_dispatch]
    rfl

/-- A line that parses to OpenBus or CloseBus begins with its opcode (R100 to R102). -/
theorem pos_zero_of_parse {line : List Byte} {r : ParseResult} (hr : r = .openBus ∨ r = .closeBus)
    (h : parse line = r) : (r = .openBus ∧ pos line 0 = 0x4F) ∨ (r = .closeBus ∧ pos line 0 = 0x43) := by
  unfold parse at h
  split_ifs at h with hO hC hT
  · exact .inl ⟨h.symm, hO⟩
  · exact .inr ⟨h.symm, hC⟩
  · rcases decodeTransmit_cases line with hbad | ⟨f, hframe⟩
    · simp [← h, hbad] at hr
    · simp [← h, hframe] at hr
  · simp [← h] at hr

/-- A change of BUS in phase 1 comes of a completed line that parses to OpenBus or CloseBus (R21). -/
theorem phase1_bus_ne {p : Params} {d : Draws} {r : Regs} (h : (phase1 p d r).1.bus ≠ r.bus) :
    ∃ b, d.inb = some b ∧ isTerminator b = true ∧ 0 < r.line.length ∧
      ((pos r.line 0 = 0x4F ∧ (phase1 p d r).1.bus = .opened) ∨
        (pos r.line 0 = 0x43 ∧ (phase1 p d r).1.bus = .closed)) := by
  rcases phase1_cases p d r with ⟨line, es, heq, -⟩ | ⟨b, hinb, hterm, hlen, heq⟩
  · simp [heq] at h
  · refine ⟨b, hinb, hterm, hlen, ?_⟩
    rw [heq] at h ⊢
    cases hparse : parse r.line with
    | openBus => exact .inl ⟨by simpa using pos_zero_of_parse (.inl rfl) hparse, rfl⟩
    | closeBus => exact .inr ⟨by simpa using pos_zero_of_parse (.inr rfl) hparse, rfl⟩
    | transmit f => simp [hparse, dispatch] at h
    | unrecognized => simp [hparse, dispatch] at h

/-- Phase 1 makes no send and keeps TXFAIL, or makes one and counts its failure (R26, R137). -/
theorem phase1_sends (p : Params) (d : Draws) (r : Regs) :
    ((phase1 p d r).2.filter Event.isSend = [] ∧ (phase1 p d r).1.txfail = r.txfail) ∨
      ∃ f, (phase1 p d r).2.filter Event.isSend = [.send f d.sendOk] ∧
        (phase1 p d r).1.txfail = (if d.sendOk = true then r.txfail else (r.txfail + 1) % 2 ^ p.txFailW) := by
  rcases phase1_cases p d r with ⟨line, es, heq, rfl | ⟨b, rfl⟩⟩ | ⟨b, -, -, -, heq⟩
  · exact .inl (by simp [heq])
  · exact .inl (by simp [heq])
  · rw [heq]
    cases parse r.line with
    | openBus => exact .inl ⟨rfl, rfl⟩
    | closeBus => exact .inl ⟨rfl, rfl⟩
    | transmit f => exact .inr ⟨f, rfl, rfl⟩
    | unrecognized => exact .inl ⟨rfl, rfl⟩

end Sys2Proof.Pseudo

namespace Sys2Proof.Machine

/-- Settles O34: the step, then each phase by the definition it unfolds to. -/
theorem stepRunsTheDecodedInstructions : Obligations.StepRunsTheDecodedInstructions := by
  intro s d hd
  refine ⟨step_of_iteration hd, fun _ => rfl, fun t b i hdec => ?_, fun t => runCompletedLine_none,
    fun t chars i hline hdec => ?_, fun t hbus => phase2_closed hbus _, fun t i hbus hdec => ?_⟩
  · cases hdec
    exact phase1_some b t
  · simp only [runCompletedLine, hline, runInput, hdec]
  · show phase2 d.answer t = exec i (t.polled d.answer)
    simp only [phase2, hbus, runInput, State.polled_params, hdec]

/-- Settles O41: a RESET is the whole move. -/
theorem resetEventRestoresTheRegisters : Obligations.ResetEventRestoresTheRegisters :=
  fun _ h => ⟨_, step_of_reset h, rfl, rfl, rfl, rfl, rfl, rfl, rfl, rfl⟩

/-- Settles O43: BUS after the iteration is what phase 1 of the pseudocode makes of it. -/
theorem busChangesOnlyByOpenOrClose : Obligations.BusChangesOnlyByOpenOrClose := by
  intro s t d hd hstep hne
  obtain ⟨-, -, ht⟩ := step_eq_next hd hstep
  have hbus : t.bus = (Pseudo.phase1 s.params d (Pseudo.Regs.of s)).1.bus := congrArg Pseudo.Regs.bus ht.regs
  rw [hbus] at hne ⊢
  obtain ⟨b, hinb, hterm, hlen, hcases⟩ := Pseudo.phase1_bus_ne (r := Pseudo.Regs.of s) hne
  have hlen : 0 < s.len := s.line_length ▸ hlen
  have hfirst : Pseudo.pos (Pseudo.Regs.of s).line 0 = s.lb.read 0 := s.line_getD hlen 0
  exact ⟨b, hinb, hterm, hlen, hfirst ▸ hcases⟩

/-- Settles O44: the sends and TXFAIL are those of phase 1. -/
theorem txfailCountsFailedSends : Obligations.TxfailCountsFailedSends := by
  intro s t d hd hstep
  obtain ⟨-, -, ht⟩ := step_eq_next hd hstep
  have htxfail : t.txfail = (Pseudo.phase1 s.params d (Pseudo.Regs.of s)).1.txfail :=
    congrArg Pseudo.Regs.txfail ht.regs
  refine ⟨_, ht.events, ?_⟩
  rw [Pseudo.step, List.filter_append, Pseudo.phase2_filter_isSend, List.append_nil, htxfail]
  exact Pseudo.phase1_sends s.params d (Pseudo.Regs.of s)

/-- Settles O45: a RESET puts nothing on OUT, an iteration what its two phases do. -/
theorem stepAppendsAtMostTwentyThreeBytes : Obligations.StepAppendsAtMostTwentyThreeBytes := by
  intro s t hstep
  cases hd : s.stimulus with
  | reset =>
    cases (step_of_reset hd).symm.trans hstep
    exact ⟨[], (List.append_nil _).symm, .inl (Nat.zero_le 1)⟩
  | iteration d =>
    obtain ⟨hcompletes, -, ht⟩ := step_eq_next hd hstep
    have hone := Pseudo.phase1_outBytes_length s.params d (Pseudo.Regs.of s)
    have htwo := Pseudo.phase2_outBytes hcompletes
    refine ⟨_, by rw [State.out, ht.events, outBytes_append]; rfl, ?_⟩
    rw [Pseudo.step, outBytes_append, List.length_append]
    rcases htwo with hnone | ⟨hmin, hmax⟩
    · exact .inl (by rw [hnone]; exact hone)
    · right; omega

/-- Settles O46: whether an iteration completes, and how, is a function of the registers, the parameters and the
draws. -/
theorem registersAndDrawsDetermineTheStep : Obligations.RegistersAndDrawsDetermineTheStep := by
  intro s s' t d hparams hregs hd hd' hstep
  obtain ⟨hcompletes, -, ht⟩ := step_eq_next hd hstep
  rw [Completes, hparams, hregs] at hcompletes
  obtain ⟨t', hstep', -, ht'⟩ := step_shows hd' hcompletes
  rw [hparams, hregs] at ht
  exact ⟨t', _, hstep', ht'.regs.trans ht.regs.symm, ht.events, ht'.events⟩

/-- Settles O48: a RESET and an iteration both end without a returned line, and both begin by dropping one. -/
theorem noLineIsCarriedBetweenSteps : Obligations.NoLineIsCarriedBetweenSteps := by
  refine fun s l => ⟨fun t hstep => ?_, ?_⟩
  · cases hd : s.stimulus with
    | reset =>
      cases (step_of_reset hd).symm.trans hstep
      exact ⟨rfl, rfl⟩
    | iteration d =>
      obtain ⟨-, hline, ht⟩ := step_eq_next hd hstep
      exact ⟨ht.stimuli, hline⟩
  · cases hd : s.stimulus with
    | reset => rw [step_of_reset hd, step_of_reset (s := { s with lineOut := l }) hd]; rfl
    | iteration d => rw [step_of_iteration hd, step_of_iteration (s := { s with lineOut := l }) hd]; rfl

/-! TXFAIL is written and never read (R26). -/

/-- The same state with another TXFAIL. -/
def State.setTxfail (s : State) (n : Nat) : State := { s with txfail := n }

/-- With another TXFAIL, `g` answers the same next state but for TXFAIL. -/
def IgnoresTxfail (g : State → Result) : Prop :=
  ∀ (s t : State) (n : Nat), g s = .next t → ∃ m, g (s.setTxfail n) = .next (t.setTxfail m)

theorem IgnoresTxfail.andThen {f g : State → Result} (hf : IgnoresTxfail f) (hg : IgnoresTxfail g) :
    IgnoresTxfail fun s => Machine.andThen (f s) g := by
  intro s t n h
  obtain ⟨u, hfu, hgt⟩ := andThen_eq_next.mp h
  obtain ⟨m, hm⟩ := hf s u n hfu
  obtain ⟨k, hk⟩ := hg u t m hgt
  exact ⟨k, andThen_eq_next.mpr ⟨_, hm, hk⟩⟩

theorem State.setTxfail_terminate (s : State) (n : Nat) : (s.setTxfail n).terminate = s.terminate.setTxfail n := by
  rcases Nat.eq_zero_or_pos s.len with hlen | hlen
  · rw [State.terminate_of_len_eq_zero hlen, State.terminate_of_len_eq_zero (s := s.setTxfail n) hlen]; rfl
  · rw [State.terminate_of_len_pos hlen, State.terminate_of_len_pos (s := s.setTxfail n) hlen]; rfl

theorem State.setTxfail_append (s : State) (n : Nat) (c : Byte) :
    (s.setTxfail n).append c = (s.append c).setTxfail n := by
  rcases Nat.lt_or_ge s.len s.cap with hroom | hfull
  · rw [State.append_of_lt hroom, State.append_of_lt (s := s.setTxfail n) hroom]; rfl
  · rw [State.append_of_le hfull, State.append_of_le (s := s.setTxfail n) hfull]; rfl

theorem State.setTxfail_emit (s : State) (n : Nat) (bytes : List Byte) :
    (s.setTxfail n).emit bytes = (s.emit bytes).setTxfail n := by
  cases bytes <;> rfl

/-- A dispatch of another count differs in the count only. -/
theorem State.setTxfail_dispatch (s : State) (n : Nat) (r : ParseResult) :
    ∃ m, (s.setTxfail n).dispatch r = (s.dispatch r).setTxfail m := by
  cases r with
  | openBus => exact ⟨n, by rw [State.dispatch_openBus, State.dispatch_openBus]; rfl⟩
  | closeBus => exact ⟨n, by rw [State.dispatch_closeBus, State.dispatch_closeBus]; rfl⟩
  | transmit f => exact ⟨_, by rw [State.dispatch_transmit, State.dispatch_transmit]; rfl⟩
  | unrecognized => exact ⟨n, rfl⟩

theorem exec_ignoresTxfail (i : Instr) : IgnoresTxfail (exec i) := by
  intro s t n h
  have hline {r : ParseResult} (hr : i.parseResult = some r) :
      ∃ m, exec i (s.setTxfail n) = .next (t.setTxfail m) := by
    cases (exec_line hr s).symm.trans h
    obtain ⟨m, hm⟩ := s.setTxfail_dispatch n r
    exact ⟨m, by rw [exec_line hr, hm]⟩
  cases i with
  | feedCr => cases h; exact ⟨n, congrArg _ (s.setTxfail_terminate n)⟩
  | feedLf => cases h; exact ⟨n, congrArg _ (s.setTxfail_terminate n)⟩
  | feedNul => cases h; exact ⟨n, rfl⟩
  | feedLower b => cases h; exact ⟨n, congrArg _ (s.setTxfail_append n _)⟩
  | feedOther b => cases h; exact ⟨n, congrArg _ (s.setTxfail_append n _)⟩
  | openBus ignored => exact hline rfl
  | closeBus ignored => exact hline rfl
  | transmit arg => exact hline rfl
  | transmitLc arg => exact hline rfl
  | unrecognized op rest => exact hline rfl
  | pollEmpty => cases h; exact ⟨n, rfl⟩
  | rxStd f => cases h; exact ⟨n, congrArg _ (s.setTxfail_emit n _)⟩
  | rxExt f => cases h; exact ⟨n, rfl⟩

theorem runInput_ignoresTxfail (x : Input) : IgnoresTxfail (runInput x) := by
  intro s t n h
  cases hdec : decode s.params x with
  | error e => simp [runInput, hdec] at h
  | ok i =>
    have hdec' : decode (s.setTxfail n).params x = .ok i := hdec
    simp only [runInput, hdec, hdec'] at h ⊢
    exact exec_ignoresTxfail i s t n h

theorem runCompletedLine_ignoresTxfail : IgnoresTxfail runCompletedLine := by
  intro s t n h
  cases hline : s.lineOut with
  | none =>
    cases (runCompletedLine_none hline).symm.trans h
    exact ⟨n, runCompletedLine_none hline⟩
  | some chars =>
    have hline' : (s.setTxfail n).lineOut = some chars := hline
    simp only [runCompletedLine, hline, hline'] at h ⊢
    exact runInput_ignoresTxfail _ _ t n h

theorem phase1_ignoresTxfail (inb : Option Byte) : IgnoresTxfail (phase1 inb) := by
  intro s t n h
  cases inb with
  | none => cases h; exact ⟨n, rfl⟩
  | some b => exact ((runInput_ignoresTxfail (.byte b)).andThen runCompletedLine_ignoresTxfail) (s.consume b) t n h

theorem phase2_ignoresTxfail (answer : Option RxFrame) : IgnoresTxfail (phase2 answer) := by
  intro s t n h
  cases hbus : s.bus with
  | closed =>
    cases (phase2_closed hbus _).symm.trans h
    exact ⟨n, phase2_closed (s := s.setTxfail n) hbus _⟩
  | opened =>
    have hbus' : (s.setTxfail n).bus = .opened := hbus
    simp only [phase2, hbus, hbus'] at h ⊢
    exact runInput_ignoresTxfail _ (s.polled answer) t n h

/-- Settles O47: no part of a step reads TXFAIL to decide what it does. -/
theorem txfailIsNotSeenOnTheWire : Obligations.TxfailIsNotSeenOnTheWire := by
  intro s t n h
  cases hd : s.stimulus with
  | reset =>
    cases (step_of_reset hd).symm.trans h
    exact ⟨_, step_of_reset (s := s.setTxfail n) hd⟩
  | iteration d =>
    rw [step_of_iteration hd] at h
    have hadvance : IgnoresTxfail fun u => .next u.advance := by rintro u _ m ⟨rfl⟩; exact ⟨m, rfl⟩
    have hphases := (phase1_ignoresTxfail d.inb).andThen ((phase2_ignoresTxfail d.answer).andThen hadvance)
    obtain ⟨m, hm⟩ := hphases s.discard t n h
    exact ⟨m, (step_of_iteration (s := s.setTxfail n) hd).trans hm⟩

end Sys2Proof.Machine
end

section
/-! The invariant of the block (10_state.md R23 to R28): it holds at reset, every step keeps it, and what it says of the widths
of LEN and TXFAIL. -/

namespace Sys2Proof.Machine

/-- The invariant speaks of the parameters, the line buffer, TXFAIL and the returned line only. -/
theorem State.Inv.congr {s t : State} (h : s.Inv) (hparams : t.params = s.params) (hlb : t.lb = s.lb)
    (hlen : t.len = s.len) (htxfail : t.txfail < 2 ^ s.params.txFailW) (hline : t.lineOut = none) : t.Inv where
  legal := hparams ▸ h.legal
  lenLe := by rw [State.cap, hparams, hlen]; exact h.lenLe
  lbWf := hlb ▸ h.lbWf
  lbCells := by rw [State.cap, hparams, hlb]; exact h.lbCells
  lineBytes := by rw [hlen, hlb]; exact h.lineBytes
  txfailLt := hparams ▸ htxfail
  noLine := hline

/-! The operations of a step. -/

theorem State.Inv.consume {s : State} (h : s.Inv) (b : Byte) : (s.consume b).Inv :=
  h.congr rfl rfl rfl h.txfailLt h.noLine

theorem State.Inv.advance {s : State} (h : s.Inv) : s.advance.Inv :=
  h.congr rfl rfl rfl h.txfailLt h.noLine

theorem State.Inv.polled {s : State} (h : s.Inv) (a : Option RxFrame) : (s.polled a).Inv :=
  h.congr rfl rfl rfl h.txfailLt h.noLine

theorem State.Inv.emit {s : State} (h : s.Inv) (bytes : List Byte) : (s.emit bytes).Inv :=
  h.congr (by simp) (by simp) (by simp) (by simpa using h.txfailLt) (by simpa using h.noLine)

/-- The end of a line leaves no byte stored; the line it returns is what is dropped here. -/
theorem State.Inv.terminate_discard {s : State} (h : s.Inv) : s.terminate.discard.Inv where
  legal := by simpa using h.legal
  lenLe := by simp
  lbWf := by simpa using h.lbWf
  lbCells := by simpa [State.cap] using h.lbCells
  lineBytes := by simp
  txfailLt := by simpa using h.txfailLt
  noLine := rfl

/-- A stored line byte keeps the buffer canonical, within its cells and made of line bytes (R23, R25). -/
theorem State.Inv.append {s : State} (h : s.Inv) {c : Byte} (hc : isLineByte c = true) : (s.append c).Inv := by
  rcases Nat.lt_or_ge s.len s.cap with hroom | hfull
  · rw [State.append_of_lt hroom]
    refine { legal := h.legal, lenLe := hroom, lbWf := Memory.write_wf h.lbWf _ _, lbCells := fun d hd => ?_,
             lineBytes := fun i hi => ?_, txfailLt := h.txfailLt, noLine := rfl }
    · rcases Memory.mem_write hd with ⟨rfl, -⟩ | ⟨hd, -⟩
      · exact hroom
      · exact h.lbCells d hd
    · rcases Nat.lt_succ_iff_lt_or_eq.mp hi with hi | rfl
      · exact (Memory.read_write_of_ne _ _ hi.ne).symm ▸ h.lineBytes i hi
      · exact (Memory.read_write_same _ _ _).symm ▸ hc
  · rw [State.append_of_le hfull]
    exact h.congr rfl rfl rfl h.txfailLt rfl

/-- Feed keeps the invariant but for the line it returns. -/
theorem State.Inv.feed {s t : State} {b : Byte} (h : s.Inv) (hexec : exec (decodeByte b) s = .next t) :
    t.discard.Inv := by
  rw [exec_decodeByte] at hexec
  cases hexec
  split_ifs with hterm hnul
  · exact h.terminate_discard
  · exact h.congr rfl rfl rfl h.txfailLt rfl
  · have happend := h.append (isLineByte_upper b (by simpa using hterm) hnul)
    exact happend.congr rfl rfl rfl happend.txfailLt rfl

/-- A dispatch counts modulo 2^TXFAIL_W (R26). -/
theorem State.Inv.dispatch {s : State} (h : s.Inv) (r : ParseResult) : (s.dispatch r).Inv := by
  cases r with
  | openBus => rw [State.dispatch_openBus]; exact h.congr rfl rfl rfl h.txfailLt h.noLine
  | closeBus => rw [State.dispatch_closeBus]; exact h.congr rfl rfl rfl h.txfailLt h.noLine
  | transmit f =>
    rw [State.dispatch_transmit]
    refine h.congr rfl rfl rfl ?_ h.noLine
    dsimp only
    split_ifs
    · exact h.txfailLt
    · exact Nat.mod_lt _ (Nat.two_pow_pos _)
  | unrecognized => rw [State.dispatch_unrecognized]; exact h.congr rfl rfl rfl h.txfailLt h.noLine

/-! The moves. -/

theorem State.Inv.phase1 {s t : State} {inb : Option Byte} (h : s.Inv) (hrun : phase1 inb s = .next t) : t.Inv := by
  cases inb with
  | none => cases hrun; exact h
  | some b =>
    obtain ⟨u, hfeed, hline⟩ := andThen_eq_next.mp (phase1_some b s ▸ hrun)
    have hu := (h.consume b).feed hfeed
    rcases runCompletedLine_eq_next hline with ⟨hnone, rfl⟩ | ⟨-, r, -, -, rfl⟩
    · exact hu.congr rfl rfl rfl hu.txfailLt hnone
    · exact hu.dispatch r

theorem State.Inv.phase2 {s t : State} {answer : Option RxFrame} (h : s.Inv) (hrun : phase2 answer s = .next t) :
    t.Inv := by
  rcases phase2_eq_next hrun with ⟨-, rfl⟩ | ⟨-, -, rfl⟩
  · exact h
  · exact (h.polled answer).emit _

theorem State.Inv.resetEvent {s : State} (h : s.Inv) : s.resetEvent.Inv where
  legal := h.legal
  lenLe := Nat.zero_le _
  lbWf := State.reset_lb_wf
  lbCells := by simp
  lineBytes := by simp
  txfailLt := Nat.two_pow_pos _
  noLine := rfl

/-- Settles O38: a RESET and both phases of an iteration keep the invariant. -/
theorem invariantIsKept : Obligations.InvariantIsKept := by
  intro s t h hstep
  cases hd : s.stimulus with
  | reset =>
    cases (step_of_reset hd).symm.trans hstep
    exact h.resetEvent.advance
  | iteration d =>
    obtain ⟨u, v, hphase1, hphase2, rfl⟩ := step_iteration_eq_next hd hstep
    have hstart : s.discard.Inv := h.congr rfl rfl rfl h.txfailLt rfl
    exact ((hstart.phase1 hphase1).phase2 hphase2).advance

/-! After reset. -/

/-- Settles O39: the buffer is empty and the counts are 0. -/
theorem invariantHoldsAtReset : Obligations.InvariantHoldsAtReset where
  legal := by decide
  lenLe := Nat.zero_le _
  lbWf := State.reset_lb_wf
  lbCells := by decide
  lineBytes := by decide
  txfailLt := by decide
  noLine := rfl

/-- Settles O40: each register by its value in `State.reset`. -/
theorem resetLeavesTheStatedValues : Obligations.ResetLeavesTheStatedValues :=
  ⟨rfl, rfl, State.line_eq_nil rfl, rfl⟩

/-! Widths. -/

/-- Settles O49: CAP + 1 values fit the width, and CLOG of 32 is 5. -/
theorem lenFitsItsRegister : Obligations.LenFitsItsRegister := by
  refine ⟨fun s h => ?_, by decide⟩
  calc s.len < s.params.cap + 1 := Nat.lt_succ_of_le h.lenLe
    _ ≤ 2 ^ s.params.lenW := Nat.le_pow_clog Nat.one_lt_two _

/-- Settles O50: the outputs are BUS and TXFAIL, and TXFAIL fits its output. -/
theorem statusOutputsShowBusAndTxfail : Obligations.StatusOutputsShowBusAndTxfail := by
  refine fun s => ⟨fun h => by rw [State.busOpen, h], fun h => by rw [State.busOpen, h], fun h => ?_⟩
  rw [State.txfailCount, BitVec.toNat_ofNat, Nat.mod_eq_of_lt h.txfailLt]

end Sys2Proof.Machine
end
